-- ==== Sys2Proof/Word.lean ====
section
/-! DEFINITION. The value types of the engine: bytes, 32-bit words, 64-bit counts, and the five-word values of the SHA-1
unit (00_scope.md R6, R7). All are unsigned bit strings; the operators of R8 are in Machine/Operands.lean. -/

namespace Sys2Proof

/-- An 8-bit unsigned value (R9). -/
abbrev Byte := BitVec 8

/-- A 32-bit word, bit 0 least significant (R7). -/
abbrev Word := BitVec 32

/-- A 64-bit value: the block count and the SHA-1 bit length (R6). -/
abbrev DWord := BitVec 64

/-- Five 32-bit words, index 0 first: a SHA-1 chaining value `SHA.H[0..4]` or a digest snapshot `RES.DIG[0..4]`
(10_state.md R23, R27). -/
structure Words5 where
  w0 : Word
  w1 : Word
  w2 : Word
  w3 : Word
  w4 : Word
deriving DecidableEq, Repr

/-- The five working variables `a, b, c, d, e` of one Block Transform (41_sha1_transform.md R108). They are no state:
they exist only while one transform is computed (R113). -/
structure Work where
  a : Word
  b : Word
  c : Word
  d : Word
  e : Word
deriving DecidableEq, Repr

end Sys2Proof
end

