-- ==== Sys2Proof/Config.lean ====
section
/-! DEFINITION. The OPEN parameters of the spec (00_scope.md R6, 93_implementation_defined.md I6): ENGINE_BASE of each
instance, N_ENGINES and RESET_DOMAIN. They are arguments of the platform functions (Machine/Platform.lean); nothing here
fixes a value for them. The spec leaves no instruction result open (93_implementation_defined.md part 2: "No reserved
item has an `any value` treatment"), so there is no free value in this file. -/

namespace Sys2Proof

/-- What the platform decides about one engine instance. -/
structure InstanceConfig where
  /-- ENGINE_BASE of this instance, a byte address on the host's bus (20_memory.md R50). -/
  base : Nat
  /-- The one host agent that drives this instance (70_reset_and_hazards.md R237). DESIGN CHOICE (log 5), safe: agents are
  told apart by a number. -/
  agent : Nat
  /-- RESET_DOMAIN of this instance (70_reset_and_hazards.md R231). DESIGN CHOICE (log 18), safe: a domain is a number; one
  reset signal reaches every instance of its domain. -/
  domain : Nat
deriving DecidableEq, Repr

/-- A platform: its instances, in order. N_ENGINES is the length of the list (60_exceptions.md R214). -/
structure PlatformConfig where
  instances : List InstanceConfig
deriving DecidableEq, Repr

end Sys2Proof
end

