-- ==== Sys2Proof/Syntax.lean ====
section
/-! DEFINITION. What can be written down: the eight commands (30_encoding.md R72), the fields of a command word (R70), the
outcome of decoding (R73), the registers of the window (10_state.md R30), the host's accesses (00_scope.md R11) and the
assembler's lines (30_encoding.md R76, R77). -/

namespace Sys2Proof

/-- The commands, one constructor per row of the opcode table (R72). The operand of the two appends is the data byte IMM8
(R71); no other command has an operand. -/
inductive Instr where
  | nop
  | clrErr
  | shaReset
  | shaAppend (imm8 : Byte)
  | shaGet
  | crcReset
  | crcAppend (imm8 : Byte)
  | crcGet
deriving DecidableEq, Repr

/-- The causes of IllegalCommand (60_exceptions.md R201). Code 0, NONE, is never raised and so is no constructor. -/
inductive IllegalCode where
  | reservedBits
  | undefinedOpc
  | nonzeroImm
deriving DecidableEq, Repr

/-- What a command word decodes to (30_encoding.md R73). -/
inductive Decoded where
  | command (i : Instr)
  | illegal (code : IllegalCode)
deriving DecidableEq, Repr

/-- The fields of format CMD32 (30_encoding.md R70). -/
structure CommandFields where
  rsvd : BitVec 16
  opc  : Byte
  imm8 : Byte
deriving DecidableEq, Repr

/-- One row of the opcode map (30_encoding.md R72). -/
structure OpcodeRow where
  mnemonic  : String
  matchWord : Word
  mask      : Word
deriving DecidableEq, Repr

/-- The registers of the window (10_state.md R30). -/
inductive Reg where
  | cmd
  | status
  | errCmd
  | shaDigest (i : Fin 5)
  | crcResult
  | shaH (i : Fin 5)
  | shaPendlen
  | shaBlkcntLo
  | shaBlkcntHi
  | crcAcc
deriving DecidableEq, Repr

/-- One host access: a byte offset in the window (a byte address on the bus in Machine/Platform.lean), a width in bits, and
for a write its data, which has that width. `RegRead(off)` is `.read off 32` and `RegWrite(off, v)` is `.write off 32 v`
(00_scope.md R11); the other widths exist so that the window can refuse them (20_memory.md R52, R53; log 9). -/
inductive HostAccess where
  | read (off width : Nat)
  | write (off width : Nat) (data : BitVec width)
deriving DecidableEq, Repr

/-- What can reach one engine instance: its host's accesses and the hardware reset signal (70_reset_and_hazards.md R231). -/
inductive HostEvent where
  | access (a : HostAccess)
  | reset
deriving DecidableEq, Repr

/-- The assembler's byte operand (30_encoding.md R76): a decimal number, a hexadecimal number, or a character literal. -/
inductive AsmByte where
  | dec (n : Nat)
  | hex (n : Nat)
  | chr (c : Char)
deriving DecidableEq, Repr

/-- One assembler line: a command, a raw word, a register access (30_encoding.md R76) or a pseudo-instruction (R77). -/
inductive AsmLine where
  | nop
  | clrErr
  | shaReset
  | shaAppend (b : AsmByte)
  | shaGet
  | crcReset
  | crcAppend (b : AsmByte)
  | crcGet
  | word (v : Nat)
  | rd (r : Reg)
  | wr (r : Reg) (v : Nat)
  | shaFeed (s : List Char)
  | crcFeed (s : List Char)
  | shaHash (s : List Char)
  | crcHash (s : List Char)
  | shaRead
  | crcRead
deriving DecidableEq, Repr

end Sys2Proof
end

