-- ==== Sys2Proof/WellFormed.lean ====
section
/-! DEFINITION. What makes a command word's fields, an assembler line and a platform configuration legal, each check as the
spec states it. -/

namespace Sys2Proof

/-- Field RSVD "must be 0" (30_encoding.md R70). -/
def CommandFields.rsvdOk (f : CommandFields) : Bool := f.rsvd == 0

/-- OPC is one of the eight of 30_encoding.md R72; R74 lists the others as illegal. -/
def CommandFields.opcOk (f : CommandFields) : Bool :=
  [0x00, 0x01, 0x10, 0x11, 0x12, 0x20, 0x21, 0x22].contains f.opc

/-- IMM8 is the data byte of the two appends and "must be 0 for every other operation" (30_encoding.md R70). -/
def CommandFields.immOk (f : CommandFields) : Bool := f.opc == 0x11 || f.opc == 0x21 || f.imm8 == 0

/-- The fields of a legal command word (30_encoding.md R74 says every other word is illegal). -/
def CommandFields.wellFormed (f : CommandFields) : Bool := f.rsvdOk && f.opcOk && f.immOk

/-- Every term of `Instr` is a legal command: the one operand is a byte by its type, and "every byte value is a valid
APPEND operand" (60_exceptions.md R206). -/
def Instr.wellFormed : Instr → Bool
  | .nop => true
  | .clrErr => true
  | .shaReset => true
  | .shaAppend imm8 => decide (imm8.toNat ≤ 0xFF)
  | .shaGet => true
  | .crcReset => true
  | .crcAppend imm8 => decide (imm8.toNat ≤ 0xFF)
  | .crcGet => true

/-- A character that has an ASCII code (30_encoding.md R76, R77). -/
def asciiChar (c : Char) : Bool := decide (c.toNat < 128)

/-- 30_encoding.md R76: a byte operand is 0..255 or an ASCII character; "any other value is an assembly error". -/
def AsmByte.wellFormed : AsmByte → Bool
  | .dec n => decide (n ≤ 255)
  | .hex n => decide (n ≤ 255)
  | .chr c => asciiChar c

/-- 30_encoding.md R76, R77: byte operands as above, raw words and written values of 32 bits, ASCII strings. -/
def AsmLine.wellFormed : AsmLine → Bool
  | .nop => true
  | .clrErr => true
  | .shaReset => true
  | .shaAppend b => b.wellFormed
  | .shaGet => true
  | .crcReset => true
  | .crcAppend b => b.wellFormed
  | .crcGet => true
  | .word v => decide (v < 2 ^ 32)
  | .rd _ => true
  | .wr _ v => decide (v < 2 ^ 32)
  | .shaFeed s => s.all asciiChar
  | .crcFeed s => s.all asciiChar
  | .shaHash s => s.all asciiChar
  | .crcHash s => s.all asciiChar
  | .shaRead => true
  | .crcRead => true

/-- `N_ENGINES` is "OPEN, ≥ 1" (00_scope.md R6). -/
def PlatformConfig.someEngine (c : PlatformConfig) : Bool := decide (1 ≤ c.instances.length)

/-- ENGINE_BASE "must be a multiple of 256" (20_memory.md R50). -/
def PlatformConfig.basesAligned (c : PlatformConfig) : Bool := c.instances.all fun i => i.base % 256 == 0

/-- "each instance has its own window at its own base" (20_memory.md R50): no two bases are equal. -/
def PlatformConfig.basesDistinct (c : PlatformConfig) : Bool := decide ((c.instances.map (·.base)).Nodup)

/-- A legal choice of the OPEN parameters. -/
def PlatformConfig.wellFormed (c : PlatformConfig) : Bool := c.someEngine && c.basesAligned && c.basesDistinct

end Sys2Proof
end

