-- ==== Sys2Proof/Decode.lean ====
section
/-! DEFINITION. Decoding (30_encoding.md R73), total on every 32-bit word, and after it the encoder from the opcode map
(R72). -/

namespace Sys2Proof

/-! ### Decoding -/

/-- `RSVD = w[31:16]`, `OPC = w[15:8]`, `IMM8 = w[7:0]` (30_encoding.md R70). -/
def fieldsOf (w : Word) : CommandFields :=
  { rsvd := w.extractLsb' 16 16, opc := w.extractLsb' 8 8, imm8 := w.extractLsb' 0 8 }

/-- The operation codes of 30_encoding.md R73's second test. -/
def definedOpcs : List Byte := [0x00, 0x01, 0x10, 0x11, 0x12, 0x20, 0x21, 0x22]

/-- The operation codes that take a data byte (30_encoding.md R73's third test). -/
def appendOpcs : List Byte := [0x11, 0x21]

/-- "the command of rule R72 with OPC = opc (and IMM8 = imm for 0x11, 0x21)"; a code outside the map is no command. -/
def commandOf (opc imm : Byte) : Decoded :=
  if opc = 0x00 then .command .nop
  else if opc = 0x01 then .command .clrErr
  else if opc = 0x10 then .command .shaReset
  else if opc = 0x11 then .command (.shaAppend imm)
  else if opc = 0x12 then .command .shaGet
  else if opc = 0x20 then .command .crcReset
  else if opc = 0x21 then .command (.crcAppend imm)
  else if opc = 0x22 then .command .crcGet
  else .illegal .undefinedOpc

/-- The three tests of 30_encoding.md R73, in its order (60_exceptions.md R202), on the fields of a word. -/
def decodeFields (f : CommandFields) : Decoded :=
  if f.rsvd ≠ 0 then .illegal .reservedBits
  else if f.opc ∉ definedOpcs then .illegal .undefinedOpc
  else if f.opc ∉ appendOpcs ∧ f.imm8 ≠ 0 then .illegal .nonzeroImm
  else commandOf f.opc f.imm8

/-- `decode(w)` of 30_encoding.md R73. -/
def decode (w : Word) : Decoded := decodeFields (fieldsOf w)

/-! ### Encoding -/

/-- The opcode map, row by row (30_encoding.md R72). -/
def Instr.row : Instr → OpcodeRow
  | .nop         => ⟨"NOP",        0x00000000, 0xFFFFFFFF⟩
  | .clrErr      => ⟨"CLR_ERR",    0x00000100, 0xFFFFFFFF⟩
  | .shaReset    => ⟨"SHA_RESET",  0x00001000, 0xFFFFFFFF⟩
  | .shaAppend _ => ⟨"SHA_APPEND", 0x00001100, 0xFFFFFF00⟩
  | .shaGet      => ⟨"SHA_GET",    0x00001200, 0xFFFFFFFF⟩
  | .crcReset    => ⟨"CRC_RESET",  0x00002000, 0xFFFFFFFF⟩
  | .crcAppend _ => ⟨"CRC_APPEND", 0x00002100, 0xFFFFFF00⟩
  | .crcGet      => ⟨"CRC_GET",    0x00002200, 0xFFFFFFFF⟩

/-- The eight rows in the table's order. -/
def opcodeTable : List OpcodeRow :=
  [Instr.nop.row, Instr.clrErr.row, Instr.shaReset.row, (Instr.shaAppend 0).row, Instr.shaGet.row, Instr.crcReset.row,
    (Instr.crcAppend 0).row, Instr.crcGet.row]

/-- IMM8: the data byte of an append, 0 otherwise (30_encoding.md R70). -/
def Instr.imm8 : Instr → Byte
  | .nop => 0
  | .clrErr => 0
  | .shaReset => 0
  | .shaAppend b => b
  | .shaGet => 0
  | .crcReset => 0
  | .crcAppend b => b
  | .crcGet => 0

/-- The command word of an instruction: its row's match word with the operand in bits 7:0. -/
def encode (i : Instr) : Word := i.row.matchWord ||| i.imm8.setWidth 32

/-- The instruction the decoder reads from the word whose bits are `w`, bit 0 least significant. There is one command
length, 32 bits (30_encoding.md R75); every bit from `nbits` up is 0. -/
def decodeTableWord (nbits w : Nat) : Option Instr :=
  if nbits ≤ 32 then
    match decode (BitVec.ofNat 32 (w % 2 ^ nbits)) with
    | .command i => some i
    | .illegal _ => none
  else none

end Sys2Proof
end

