-- ==== Sys2Proof/Machine/Constants.lean ====
section
/-! DEFINITION. The constants of the two algorithms and of the window, each written once. -/

namespace Sys2Proof.Machine

/-- The initial digest constants of the SHA-1 unit, `IV` (10_state.md R23, 42_sha1_core.md R130). -/
def sha1Iv : Words5 := ⟨0x67452301, 0xEFCDAB89, 0x98BADCFE, 0x10325476, 0xC3D2E1F0⟩

/-- The SHA-1 block size in bytes (00_scope.md R6). -/
def blockBytes : Nat := 64

/-- Where the 8-byte length field of the final block begins (42_sha1_core.md R136, R137). -/
def lengthFieldAt : Nat := 56

/-- The reflected CRC-32 polynomial, used only to build the table (43_crc32.md R160). -/
def crcPoly : Word := 0xEDB88320

/-- The initial value of the CRC-32 accumulator (43_crc32.md R162). -/
def crcInit : Word := 0xFFFFFFFF

/-- The final XOR of CRC-32, which is not the polynomial (43_crc32.md R165, 90_conflicts.md C3). -/
def crcFinalXor : Word := 0xFFFFFFFF

/-- The size of one instance's register window in bytes (20_memory.md R50). -/
def windowBytes : Nat := 256

end Sys2Proof.Machine
end

