-- ==== Sys2Proof/Machine/State.lean ====
section
/-! DEFINITION. The state of one engine instance (10_state.md R20), the host's side of its port, the ways a step can stop,
and the state after hardware reset (10_state.md R40). -/

namespace Sys2Proof.Machine

/-- The state of one engine instance is exactly these fields (10_state.md R20). The CRC table, the message schedule, the
working variables and Get's copy are not state (R21). -/
structure Engine where
  /-- SHA.H[0..4], the running digest (R23). -/
  shaH : Words5
  /-- SHA.BUF, the pending bytes, first byte first (R24). -/
  shaBuf : List Byte
  /-- SHA.BLK, blocks transformed since the unit's last reset, modulo 2^64 (R25). -/
  shaBlk : DWord
  /-- CRC.ACC, the CRC-32 accumulator (R26). -/
  crcAcc : Word
  /-- RES.DIG[0..4], the last SHA-1 snapshot (R27). -/
  resDig : Words5
  /-- RES.CRC, the last CRC-32 snapshot (R27). -/
  resCrc : Word
  /-- STATUS.ERR (R28). -/
  err : Bool
  /-- STATUS.ERRCODE, 4 bits (R28). -/
  errCode : BitVec 4
  /-- STATUS.SHA_VALID (R28). -/
  shaValid : Bool
  /-- STATUS.CRC_VALID (R28). -/
  crcValid : Bool
  /-- ERR_CMD, the first rejected command word (R29). -/
  errCmd : Word
deriving DecidableEq, Repr

/-- One engine instance at its port. `pending` and `received` are the model's own, host state and no engine state
(10_state.md R22: the program is "the host's access sequence"; "its position is host state"). DESIGN CHOICE (log 1), safe. -/
structure State where
  /-- The engine instance. -/
  eng : Engine
  /-- The host's accesses and the reset signals that have not happened yet, oldest first. -/
  pending : List HostEvent
  /-- The values that admitted reads have returned to the host, oldest first. -/
  received : List Word
deriving DecidableEq, Repr

/-- How a step can stop with a fault. -/
inductive Fault where
  /-- Raised by an access that the window does not let in (20_memory.md R53, 60_exceptions.md R207: "A model represents
  BusError as a fault outcome of the access"); `off` is the offset accessed. Safe: the hardware goes on with the next
  access, the model's run ends (log 4). For an offset of 0x100 or more it is the model's choice (log 22), safe. -/
  | busError (off : Nat)
deriving DecidableEq, Repr

/-- How a step can be refused. -/
inductive Refusal where
  /-- An instruction of the opcode table without a meaning. Raised by no arm of this model. Safe. -/
  | notModelled (mnemonic : String)
  /-- Raised by the platform when an agent other than an instance's own accesses it: "A model admits one host agent per
  instance and does not model two" (70_reset_and_hazards.md R237, 93_implementation_defined.md I3 `refuse`). Safe. -/
  | secondHostAgent (agent : Nat)
  /-- Raised by the platform for a bus address in no instance's window: such an access reaches no engine, and what else
  answers on the host's bus is not in the spec (20_memory.md R50; log 7). The address is that of the access's first byte
  (log 23). Safe. -/
  | outsideEveryWindow (addr : Nat)
deriving DecidableEq, Repr

/-- Every state element of one engine instance at its reset value (10_state.md R40). -/
def Engine.reset : Engine where
  shaH := sha1Iv
  shaBuf := []
  shaBlk := 0
  crcAcc := crcInit
  resDig := ⟨0, 0, 0, 0, 0⟩
  resCrc := 0
  err := false
  errCode := 0
  shaValid := false
  crcValid := false
  errCmd := 0

/-- The machine right after reset: the engine as the spec says (10_state.md R40), and no access issued yet ("it executes
nothing until the host writes CMD", 70_reset_and_hazards.md R231). -/
def State.reset : State where
  eng := Engine.reset
  pending := []
  received := []

end Sys2Proof.Machine
end

