-- ==== Sys2Proof/Machine/Operands.lean ====
section
/-! DEFINITION. The operators of 00_scope.md R8 and R9 that Lean's `BitVec` does not name as the spec does, and the two
operand forms of a command (30_encoding.md R71). The others are `BitVec`'s own: `+` wraps modulo 2^32, `^^^`, `&&&`, `|||`
and `~~~` are bitwise, `>>>` is the logical right shift and `<<<` drops the bits above bit 31. -/

namespace Sys2Proof.Machine

/-- `rotl32(a, n)` for `1 <= n <= 31` (R8). -/
def rotl32 (a : Word) (n : Nat) : Word := (a <<< n) ||| (a >>> (32 - n))

/-- `be32(b0, b1, b2, b3)`: `b0` is the most significant byte (R9). -/
def be32 (b0 b1 b2 b3 : Byte) : Word :=
  (b0.setWidth 32 <<< 24) ||| (b1.setWidth 32 <<< 16) ||| (b2.setWidth 32 <<< 8) ||| b3.setWidth 32

/-- `bytes_be32(w)`: the four bytes of a word, most significant first (R9). -/
def bytesBe32 (w : Word) : List Byte :=
  [w.extractLsb' 24 8, w.extractLsb' 16 8, w.extractLsb' 8 8, w.extractLsb' 0 8]

/-- `zeros(n)`: `n` bytes of 0x00 (42_sha1_core.md R134). -/
def zeros (n : Nat) : List Byte := List.replicate n 0

/-- `v[63:32]` of a 64-bit value (R7). -/
def hiWord (v : DWord) : Word := v.extractLsb' 32 32

/-- `v[31:0]` of a 64-bit value (R7). -/
def loWord (v : DWord) : Word := v.extractLsb' 0 32

/-- Element `i` of a five-word value. -/
def words5Get (v : Words5) : Fin 5 → Word
  | 0 => v.w0
  | 1 => v.w1
  | 2 => v.w2
  | 3 => v.w3
  | 4 => v.w4

/-- A five-word value as a sequence, index 0 first. -/
def words5List (v : Words5) : List Word := [v.w0, v.w1, v.w2, v.w3, v.w4]

/-- SHA_APPEND's operand: IMM8 "as one byte", "never sign-extended, scaled or shifted" (30_encoding.md R71). -/
def operandByte (imm8 : Byte) : Byte := imm8

/-- CRC_APPEND's operand: `zext_32(IMM8)` (30_encoding.md R71). -/
def operandWord (imm8 : Byte) : Word := imm8.setWidth 32

end Sys2Proof.Machine
end

