-- ==== Sys2Proof/Machine/Flags.lean ====
section
/-! DEFINITION. The STATUS fields: the error codes (60_exceptions.md R201), the value of the STATUS register (10_state.md
R32) and the two writes of a VALID bit (10_state.md R28). The engine has no arithmetic flags (10_state.md R22). -/

namespace Sys2Proof.Machine

/-- The cause codes of 60_exceptions.md R201. -/
def errCodeOf : IllegalCode → BitVec 4
  | .reservedBits => 1
  | .undefinedOpc => 2
  | .nonzeroImm => 3

/-- A one-bit field as a word. -/
def bitWord (b : Bool) : Word := if b then 1 else 0

/-- `zext_32(ERRCODE << 4 | CRC_VALID << 2 | SHA_VALID << 1 | ERR)` (10_state.md R32). -/
def statusWord (e : Engine) : Word :=
  (e.errCode.setWidth 32 <<< 4) ||| (bitWord e.crcValid <<< 2) ||| (bitWord e.shaValid <<< 1) ||| bitWord e.err

/-- STATUS.SHA_VALID <- 1 (42_sha1_core.md R133). -/
def Engine.setShaValid (e : Engine) : Engine := { e with shaValid := true }

/-- STATUS.CRC_VALID <- 1 (43_crc32.md R164). -/
def Engine.setCrcValid (e : Engine) : Engine := { e with crcValid := true }

end Sys2Proof.Machine
end

