-- ==== Sys2Proof/Machine/Ops.lean ====
section
/-! DEFINITION. The named operations over the state: each writes the fields its name says and no others. Rejecting an
illegal command is `Engine.recordError` (60_exceptions.md R203), the engine's whole reaction to an error, and the return
from one is `Engine.clearError` (40_engine_control.md R91); there is no trap entry (60_exceptions.md R210). -/

namespace Sys2Proof.Machine

/-- Run an engine operation as one atomic update; the host's side is unchanged (70_reset_and_hazards.md R235). -/
def State.onEngine (f : Engine → Engine) (s : State) : State := { s with eng := f s.eng }

/-- `reject(code, w)`: the first error is kept; a second one writes nothing (60_exceptions.md R203). -/
def Engine.recordError (code : IllegalCode) (w : Word) (e : Engine) : Engine :=
  if e.err then e else { e with err := true, errCode := errCodeOf code, errCmd := w }

/-- STATUS.ERR, STATUS.ERRCODE and ERR_CMD <- 0 (40_engine_control.md R91). -/
def Engine.clearError (e : Engine) : Engine := { e with err := false, errCode := 0, errCmd := 0 }

/-- The SHA-1 unit in its initial state (42_sha1_core.md R130). -/
def Engine.resetSha (e : Engine) : Engine := { e with shaH := sha1Iv, shaBlk := 0, shaBuf := [] }

/-- SHA.BUF <- b (42_sha1_core.md R131). -/
def Engine.setShaBuf (b : List Byte) (e : Engine) : Engine := { e with shaBuf := b }

/-- The three writes of the block step: SHA.H <- h, SHA.BLK <- SHA.BLK + 1 modulo 2^64, SHA.BUF <- empty
(42_sha1_core.md R132). -/
def Engine.takeBlock (h : Words5) (e : Engine) : Engine := { e with shaH := h, shaBlk := e.shaBlk + 1, shaBuf := [] }

/-- RES.DIG <- d (42_sha1_core.md R133). -/
def Engine.setResDig (d : Words5) (e : Engine) : Engine := { e with resDig := d }

/-- CRC.ACC <- v (43_crc32.md R162, R163). -/
def Engine.setCrcAcc (v : Word) (e : Engine) : Engine := { e with crcAcc := v }

/-- RES.CRC <- v (43_crc32.md R164). -/
def Engine.setResCrc (v : Word) (e : Engine) : Engine := { e with resCrc := v }

/-- Hardware reset sets every state element of the instance "at once" (70_reset_and_hazards.md R230). -/
def Engine.hardwareReset (_ : Engine) : Engine := Engine.reset

/-- Take the oldest pending event away. -/
def State.dropEvent (s : State) : State := { s with pending := s.pending.tail }

/-- An admitted read returns `v` to the host (20_memory.md R55). -/
def State.deliver (v : Word) (s : State) : State := { s with received := s.received ++ [v] }

/-- The host issues further accesses, after those it has issued already (20_memory.md R59). -/
def State.enqueue (as : List HostAccess) (s : State) : State := { s with pending := s.pending ++ as.map HostEvent.access }

end Sys2Proof.Machine
end

