-- ==== Sys2Proof/Machine/Crc32.lean ====
section
/-! DEFINITION. The CRC-32 unit: its table and the commands CRC_RESET, CRC_APPEND and CRC_GET (43_crc32.md R160 to R165). -/

namespace Sys2Proof.Machine

/-- One of the 8 iterations of R160: the bit tested is the one before the shift, and the shift is logical. -/
def crcBit (c : Word) : Word := if c &&& 1 = 1 then (c >>> 1) ^^^ crcPoly else c >>> 1

/-- `n` iterations. -/
def crcBits : Nat → Word → Word
  | 0, c => c
  | n + 1, c => crcBits n (crcBit c)

/-- `CRC_TABLE[n]` (R160), computed when it is read (R160: "a model may equally compute an entry from this rule when it
is read"; log 16). -/
def crcTable (n : Byte) : Word := crcBits 8 (n.setWidth 32)

/-- The accumulator after one byte: `CRC_TABLE[(ACC ^ zext_32(IMM8)) & 0xFF] ^ (ACC >> 8)` (R163). -/
def crcStep (acc : Word) (x : Word) : Word := crcTable (((acc ^^^ x) &&& 0xFF).setWidth 8) ^^^ (acc >>> 8)

/-- `CRC32_Finalize(acc)` (R165). -/
def crc32Finalize (acc : Word) : Word := acc ^^^ crcFinalXor

/-- CRC_RESET (R162). -/
def execCrcReset (s : State) : Host.Outcome State Fault Refusal := .next (s.onEngine (Engine.setCrcAcc crcInit))

/-- One byte into the accumulator (R163). -/
def Engine.appendCrc (x : Word) (e : Engine) : Engine := e.setCrcAcc (crcStep e.crcAcc x)

/-- CRC_APPEND (R163). -/
def execCrcAppend (imm8 : Byte) (s : State) : Host.Outcome State Fault Refusal :=
  .next (s.onEngine (Engine.appendCrc (operandWord imm8)))

/-- The snapshot of CRC_GET: the accumulator is not written (R164). -/
def Engine.getCrc (e : Engine) : Engine := (e.setResCrc (crc32Finalize e.crcAcc)).setCrcValid

/-- CRC_GET (R164). -/
def execCrcGet (s : State) : Host.Outcome State Fault Refusal := .next (s.onEngine Engine.getCrc)

end Sys2Proof.Machine
end

