-- ==== Sys2Proof/Machine/EngineControl.lean ====
section
/-! DEFINITION. The engine-control commands NOP and CLR_ERR (40_engine_control.md R90, R91). -/

namespace Sys2Proof.Machine

/-- NOP: "nothing is written" (R90). -/
def execNop (s : State) : Host.Outcome State Fault Refusal := .next s

/-- CLR_ERR (R91). -/
def execClrErr (s : State) : Host.Outcome State Fault Refusal := .next (s.onEngine Engine.clearError)

end Sys2Proof.Machine
end

