-- ==== Sys2Proof/Machine/Sha1Transform.lean ====
section
/-! DEFINITION. The SHA-1 Block Transform, one pure function (41_sha1_transform.md R100 to R113). -/

namespace Sys2Proof.Machine

/-! ### Message schedule -/

/-- A byte sequence as big-endian words, four bytes each (R102); a block has 64 bytes and gives 16 words. -/
def beWords : List Byte → List Word
  | b0 :: b1 :: b2 :: b3 :: rest => be32 b0 b1 b2 b3 :: beWords rest
  | _ => []

/-- `W[t]` for `t >= 16` from the words before it, NEWEST FIRST: `W[t-1]` is at position 0, so `W[t-3]`, `W[t-8]`,
`W[t-14]` and `W[t-16]` are at 2, 7, 13 and 15 (R103). -/
def nextWord (older : List Word) : Word :=
  rotl32 (older.getD 2 0 ^^^ older.getD 7 0 ^^^ older.getD 13 0 ^^^ older.getD 15 0) 1

/-- `n` more schedule words on top of the newest-first list of those before (R103, "in increasing order"). -/
def extendSchedule : Nat → List Word → List Word
  | 0, older => older
  | n + 1, older => extendSchedule n (nextWord older :: older)

/-- `W[0..79]` of a block (R102, R103). -/
def schedule (m : List Byte) : List Word := (extendSchedule 64 (beWords m).reverse).reverse

/-! ### Round functions and constants -/

/-- Stage 0 (R104). -/
def sha1Choose (b c d : Word) : Word := (b &&& (c ^^^ d)) ^^^ d

/-- Stages 1 and 3 (R105). -/
def sha1Parity (b c d : Word) : Word := b ^^^ c ^^^ d

/-- Stage 2 (R106). -/
def sha1Majority (b c d : Word) : Word := (b &&& c) ||| (b &&& d) ||| (c &&& d)

/-- `f_t(b, c, d)` (R101). -/
def roundFn (t : Nat) (b c d : Word) : Word :=
  if t ≤ 19 then sha1Choose b c d
  else if t ≤ 39 then sha1Parity b c d
  else if t ≤ 59 then sha1Majority b c d
  else sha1Parity b c d

/-- `K_t` (R107). -/
def roundConst (t : Nat) : Word :=
  if t ≤ 19 then 0x5A827999
  else if t ≤ 39 then 0x6ED9EBA1
  else if t ≤ 59 then 0x8F1BBCDC
  else 0xCA62C1D6

/-! ### Compression -/

/-- The working variables before round 0 (R108). -/
def workOf (h : Words5) : Work := ⟨h.w0, h.w1, h.w2, h.w3, h.w4⟩

/-- Round `t` with schedule word `w`: all five new values from the old ones (R109). -/
def roundStep (t : Nat) (w : Word) (v : Work) : Work where
  a := rotl32 v.a 5 + roundFn t v.b v.c v.d + v.e + roundConst t + w
  b := v.a
  c := rotl32 v.b 30
  d := v.c
  e := v.d

/-- The rounds from `t` on, one for each schedule word left, in order (R110). -/
def roundsFrom : Nat → List Word → Work → Work
  | _, [], v => v
  | t, w :: ws, v => roundsFrom (t + 1) ws (roundStep t w v)

/-- Feed-forward: the working variables are added into the chaining value (R111). -/
def feedForward (h : Words5) (v : Work) : Words5 := ⟨h.w0 + v.a, h.w1 + v.b, h.w2 + v.c, h.w3 + v.d, h.w4 + v.e⟩

/-- `SHA1_Transform(H, M)` (R112); `M` is a block of 64 bytes (R100). -/
def sha1Transform (h : Words5) (m : List Byte) : Words5 := feedForward h (roundsFrom 0 (schedule m) (workOf h))

end Sys2Proof.Machine
end

