-- ==== Sys2Proof/Machine/Sha1.lean ====
section
/-! DEFINITION. The SHA-1 unit's commands SHA_RESET, SHA_APPEND and SHA_GET (42_sha1_core.md R130 to R137). -/

namespace Sys2Proof.Machine

/-- SHA_RESET (R130). -/
def execShaReset (s : State) : Host.Outcome State Fault Refusal := .next (s.onEngine Engine.resetSha)

/-- `block_step(B)` (R132). -/
def Engine.blockStep (b : List Byte) (e : Engine) : Engine := e.takeBlock (sha1Transform e.shaH b)

/-- One byte into the SHA-1 input: the 64th byte runs the block step in the same command (R131). -/
def Engine.appendSha (x : Byte) (e : Engine) : Engine :=
  if (e.shaBuf ++ [x]).length = blockBytes then e.blockStep (e.shaBuf ++ [x]) else e.setShaBuf (e.shaBuf ++ [x])

/-- SHA_APPEND (R131). -/
def execShaAppend (imm8 : Byte) (s : State) : Host.Outcome State Fault Refusal :=
  .next (s.onEngine (Engine.appendSha (operandByte imm8)))

/-- `((BLK * 64 + L) * 8) mod 2^64`, "computed without intermediate overflow and then reduced" (R135). -/
def bitLength (blk : DWord) (len : Nat) : DWord := BitVec.ofNat 64 ((blk.toNat * blockBytes + len) * 8)

/-- The 8 bytes of the length field: high word, then low word, each big-endian (R137). -/
def lengthField (bits : DWord) : List Byte := bytesBe32 (hiWord bits) ++ bytesBe32 (loWord bits)

/-- The last block: the padded data that is left, zeros up to byte 56, the length (R134, R137). -/
def finalBlock (p : List Byte) (bits : DWord) : List Byte := p ++ zeros (lengthFieldAt - p.length) ++ lengthField bits

/-- `SHA1_Finalize(H, BUF, BLK)` (R134), with the two-block case of R136. -/
def sha1Finalize (h : Words5) (buf : List Byte) (blk : DWord) : Words5 :=
  if buf.length + 1 > lengthFieldAt then
    sha1Transform (sha1Transform h (buf ++ [0x80] ++ zeros (blockBytes - (buf.length + 1))))
      (finalBlock [] (bitLength blk buf.length))
  else sha1Transform h (finalBlock (buf ++ [0x80]) (bitLength blk buf.length))

/-- The snapshot of SHA_GET: the unit itself is not written (R133). -/
def Engine.getSha (e : Engine) : Engine := (e.setResDig (sha1Finalize e.shaH e.shaBuf e.shaBlk)).setShaValid

/-- SHA_GET (R133). -/
def execShaGet (s : State) : Host.Outcome State Fault Refusal := .next (s.onEngine Engine.getSha)

end Sys2Proof.Machine
end

