-- ==== Sys2Proof/Machine/Dispatch.lean ====
section
/-! DEFINITION. One arm per command of the opcode table (30_encoding.md R72). -/

namespace Sys2Proof.Machine

def exec (i : Instr) (s : State) : Host.Outcome State Fault Refusal :=
  match i with
  | .nop => Sys2Proof.Machine.execNop s
  | .clrErr => Sys2Proof.Machine.execClrErr s
  | .shaReset => Sys2Proof.Machine.execShaReset s
  | .shaAppend imm8 => Sys2Proof.Machine.execShaAppend imm8 s
  | .shaGet => Sys2Proof.Machine.execShaGet s
  | .crcReset => Sys2Proof.Machine.execCrcReset s
  | .crcAppend imm8 => Sys2Proof.Machine.execCrcAppend imm8 s
  | .crcGet => Sys2Proof.Machine.execCrcGet s

end Sys2Proof.Machine
end

