-- ==== Sys2Proof/Machine/Window.lean ====
section
/-! DEFINITION. The register window (10_state.md R30): where each register stands, in which direction it is accessed, which
accesses are admitted (20_memory.md R52) and what an admitted read returns (10_state.md R32 to R39). -/

namespace Sys2Proof.Machine

/-- The registers of 10_state.md R30, in the order of the table. -/
def allRegs : List Reg :=
  [.cmd, .status, .errCmd, .shaDigest 0, .shaDigest 1, .shaDigest 2, .shaDigest 3, .shaDigest 4, .crcResult,
    .shaH 0, .shaH 1, .shaH 2, .shaH 3, .shaH 4, .shaPendlen, .shaBlkcntLo, .shaBlkcntHi, .crcAcc]

/-- The byte offset of a register (R30). -/
def regOffset : Reg → Nat
  | .cmd => 0x00
  | .status => 0x04
  | .errCmd => 0x08
  | .shaDigest i => 0x10 + 4 * i.val
  | .crcResult => 0x24
  | .shaH i => 0x30 + 4 * i.val
  | .shaPendlen => 0x44
  | .shaBlkcntLo => 0x48
  | .shaBlkcntHi => 0x4C
  | .crcAcc => 0x50

/-- The register at an offset; none where the offset is reserved (20_memory.md R53). -/
def regAt (off : Nat) : Option Reg := allRegs.find? fun r => regOffset r == off

/-- The value of a register as a read returns it (10_state.md R32 to R39). CMD "holds no value" (R31). -/
def regValue (e : Engine) : Reg → Option Word
  | .cmd => none
  | .status => some (statusWord e)
  | .errCmd => some e.errCmd
  | .shaDigest i => some (words5Get e.resDig i)
  | .crcResult => some e.resCrc
  | .shaH i => some (words5Get e.shaH i)
  | .shaPendlen => some ((BitVec.ofNat 6 e.shaBuf.length).setWidth 32)
  | .shaBlkcntLo => some (loWord e.shaBlk)
  | .shaBlkcntHi => some (hiWord e.shaBlk)
  | .crcAcc => some e.crcAcc

/-- What the window makes of an access before any decoding (20_memory.md R52, 60_exceptions.md R208): a read of a register,
a command word issued, or a BusError at an offset. -/
inductive Admission where
  | readReg (r : Reg)
  | issue (w : Word)
  | busError (off : Nat)
deriving DecidableEq, Repr

/-- Admission (20_memory.md R52): (a) 32 bits wide, (b) aligned, (c) a register's offset, (d) CMD for a write, any other
register for a read. An offset of 0x100 or more lies in no window (R50) and the spec gives it no response: BusError there is
a DESIGN CHOICE (log 22), safe. -/
def admission : HostAccess → Admission
  | .read off width =>
    if width = 32 ∧ off % 4 = 0 then
      match regAt off with
      | none => .busError off
      | some r => if r = .cmd then .busError off else .readReg r
    else .busError off
  | .write off width data =>
    if width = 32 ∧ off % 4 = 0 then
      match regAt off with
      | none => .busError off
      | some r => if r = .cmd then .issue (data.setWidth 32) else .busError off
    else .busError off

end Sys2Proof.Machine
end

