-- ==== Sys2Proof/Machine/Access.lean ====
section
/-! DEFINITION. What one host access does: the step of 40_engine_control.md R92 for a command word, the reads of
20_memory.md R55, and how each access completes on the bus (60_exceptions.md R207). -/

namespace Sys2Proof.Machine

/-- `on RegWrite(0x00, w)`: decode, then execute or reject (40_engine_control.md R92). An illegal word is no fault: the
error is recorded and nothing else happens (60_exceptions.md R203, R204). -/
def issueCommand (w : Word) (s : State) : Host.Outcome State Fault Refusal :=
  match decode w with
  | .command i => exec i s
  | .illegal code => .next (s.onEngine (Engine.recordError code w))

/-- How an access completes on the bus: a read with its data, a write, or with BusError (60_exceptions.md R207). -/
inductive Completion where
  | data (v : Word)
  | written
  | busError (off : Nat)
deriving DecidableEq, Repr

/-- The completion status and data of an access, from the state "as it stands when the read is performed"
(20_memory.md R55). -/
def completionOf (a : HostAccess) (s : State) : Completion :=
  match admission a with
  | .readReg r => match regValue s.eng r with
    | some v => .data v
    | none => .busError (regOffset r)
  | .issue _ => .written
  | .busError off => .busError off

/-- What an access does to the state. An access that is not admitted changes nothing (20_memory.md R53); a read changes no
engine state (R55) and hands the host its value; an admitted write issues its command (R54). -/
def effectOf (a : HostAccess) (s : State) : Host.Outcome State Fault Refusal :=
  match admission a with
  | .issue w => issueCommand w s
  | .readReg _ => match completionOf a s with
    | .data v => .next (s.deliver v)
    | .written => .next s
    | .busError _ => .next s
  | .busError _ => .next s

/-- One host access as a step of the machine: BusError is "a fault outcome of the access (the host's step faults), never a
returned value" (60_exceptions.md R207). -/
def performAccess (a : HostAccess) (s : State) : Host.Outcome State Fault Refusal :=
  match completionOf a s with
  | .busError off => .fault (.busError off)
  | .data _ => effectOf a s
  | .written => effectOf a s

/-- One event at the instance's port; a hardware reset is a signal, not an access (70_reset_and_hazards.md R231). -/
def performEvent (ev : HostEvent) (s : State) : Host.Outcome State Fault Refusal :=
  match ev with
  | .access a => performAccess a s
  | .reset => .next (s.onEngine Engine.hardwareReset)

/-- Take the oldest pending event and perform it. With none, the engine keeps its state ("it executes nothing until the
host writes CMD", 70_reset_and_hazards.md R231; "Its state is kept while it is powered and not reset", 60_exceptions.md
R216). DEDUCED (log 3), safe. -/
def performNext (s : State) : Host.Outcome State Fault Refusal :=
  match s.pending with
  | [] => .next s
  | ev :: _ => performEvent ev s.dropEvent

end Sys2Proof.Machine
end

