-- ==== Sys2Proof/Machine/Step.lean ====
section
/-! DEFINITION. One step: the oldest pending event at the port of the engine instance, as one atomic step (20_memory.md R59,
70_reset_and_hazards.md R235). -/

namespace Sys2Proof.Machine

def step (s : State) : Host.Outcome State Fault Refusal := performNext s

/-- The state in which the host's next access is the admitted write of the word whose bits are `w` to CMD. The engine
fetches nothing (20_memory.md R62): a command arrives only as the data of such a write, so this is where the next command
comes from (log 2). -/
def State.withFetchWord (s : State) (nbits w : Nat) : State :=
  { s with pending := .access (.write 0x00 32 (BitVec.ofNat 32 (w % 2 ^ nbits))) :: s.pending }

end Sys2Proof.Machine
end

