-- ==== Sys2Proof/Machine/HostSide.lean ====
section
/-! DEFINITION. The host's use of the engine (44_host_side.md R180 to R186): digest values, hex rendering, comparison, feeding
a byte sequence, reading a digest, and the one-shot hash. "No rule in this file changes engine state": these are host
functions, built from accesses and steps only. Text is a list of characters. -/

namespace Sys2Proof.Machine

/-! ### Digest values -/

/-- A digest value of `n` bytes; "the width is part of the value's type" (R180). -/
structure Digest (n : Nat) where
  bytes : List Byte
  length_eq : bytes.length = n
deriving DecidableEq, Repr

/-- `SHA1Digest` "is 20 bytes" (R180). -/
abbrev Sha1Digest := Digest 20

/-- `CRC32Digest` "is 4 bytes" (R180). -/
abbrev Crc32Digest := Digest 4

/-- The 20 bytes of five digest words, each most significant byte first (42_sha1_core.md R138). -/
def sha1DigestBytes (v : Words5) : List Byte := (words5List v).flatMap bytesBe32

/-- The SHA-1 digest value of RES.DIG (42_sha1_core.md R138). -/
def sha1DigestOf (v : Words5) : Sha1Digest := ⟨sha1DigestBytes v, rfl⟩

/-- The CRC-32 digest value of RES.CRC, most significant byte first (43_crc32.md R166). -/
def crc32DigestOf (v : Word) : Crc32Digest := ⟨bytesBe32 v, rfl⟩

/-! ### Rendering and comparison -/

/-- `h(v)` for `v in 0..15` (R181). -/
def hexDigit (v : Nat) : Char := if v ≤ 9 then Char.ofNat ('0'.toNat + v) else Char.ofNat ('a'.toNat + (v - 10))

/-- The two characters of one byte, high nibble first (R181). -/
def hexByte (b : Byte) : List Char := [hexDigit (b >>> 4).toNat, hexDigit (b &&& 0xF).toNat]

/-- The hex characters of a byte sequence (R181). -/
def hexBytes (bs : List Byte) : List Char := bs.flatMap hexByte

/-- `hex(d)` (R181). -/
def Digest.hex {n : Nat} (d : Digest n) : List Char := hexBytes d.bytes

/-- `A`..`F` mapped to `a`..`f`, every other character to itself (R182). -/
def lowerHex (c : Char) : Char := if 'A' ≤ c ∧ c ≤ 'F' then Char.ofNat (c.toNat + 32) else c

/-- `a`..`f` mapped to `A`..`F`: the upper-case form of a rendered digest (R182's `upper`). -/
def upperHex (c : Char) : Char := if 'a' ≤ c ∧ c ≤ 'f' then Char.ofNat (c.toNat - 32) else c

/-- `eq_hex(d, s)`: equal lengths, and every position equal after mapping upper case to lower; a string of another length
gives false, not an error (R182). -/
def Digest.eqHex {n : Nat} (d : Digest n) (s : List Char) : Bool := s.map lowerHex == d.hex.map lowerHex

/-- `eq_bytes(d1, d2)`, for two digests of the same width (R183). -/
def Digest.eqBytes {n : Nat} (d1 d2 : Digest n) : Bool := d1.bytes == d2.bytes

/-! ### Accesses the host issues -/

/-- `RegWrite(0x00, w)` (00_scope.md R11, 10_state.md R31). -/
def writeCmd (w : Word) : HostAccess := .write 0x00 32 w

/-- `RegRead` of a register (00_scope.md R11). -/
def readReg (r : Reg) : HostAccess := .read (regOffset r) 32

/-- The SHA-1 unit's `AppendData` of a byte sequence: `0x00001100 | s[j]` in order; nothing for the empty one (R185). -/
def shaFeed (s : List Byte) : List HostAccess := s.map fun b => writeCmd (0x00001100 ||| b.setWidth 32)

/-- The CRC-32 unit's `AppendData` of a byte sequence: `0x00002100 | s[j]` in order (R185). -/
def crcFeed (s : List Byte) : List HostAccess := s.map fun b => writeCmd (0x00002100 ||| b.setWidth 32)

/-- `sha.hash`: reset, feed, get (30_encoding.md R77). -/
def shaHash (s : List Byte) : List HostAccess := writeCmd 0x00001000 :: shaFeed s ++ [writeCmd 0x00001200]

/-- `crc.hash`: reset, feed, get (30_encoding.md R77). -/
def crcHash (s : List Byte) : List HostAccess := writeCmd 0x00002000 :: crcFeed s ++ [writeCmd 0x00002200]

/-- `sha.read`: SHA_DIGEST0 to SHA_DIGEST4 (30_encoding.md R77, R184). -/
def shaRead : List HostAccess :=
  [readReg (.shaDigest 0), readReg (.shaDigest 1), readReg (.shaDigest 2), readReg (.shaDigest 3), readReg (.shaDigest 4)]

/-- `crc.read`: CRC_RESULT (30_encoding.md R77, R184). -/
def crcRead : List HostAccess := [readReg .crcResult]

/-! ### Running them -/

/-- `k` steps of the machine, stopping at the first fault or refusal. -/
def runSteps (k : Nat) (s : State) : Host.Outcome State Fault Refusal := Host.Core.run Sys2Proof.core k s

/-- The host issues the accesses, in order, and each is performed by one step (20_memory.md R59). With events already
pending, the accesses stand behind them and the same number of steps is taken, so that older events are performed in their
place. DESIGN CHOICE (log 21), safe. -/
def runHost (as : List HostAccess) (s : State) : Host.Outcome State Fault Refusal := runSteps as.length (s.enqueue as)

/-- The values an outcome's state holds for the host beyond the first `n`. -/
def receivedAfter (n : Nat) : Host.Outcome State Fault Refusal → List Word
  | .next t => t.received.drop n
  | .fault _ => []
  | .refused _ => []

/-- `SHA1(s)`: the digest read after `sha.hash "s"` (R186), on an instance in state `st` with nothing pending. With events
pending, R186 leaves the value open and this one says nothing of the digest: DESIGN CHOICE (log 21), safe. -/
def oneShotSha1 (s : List Byte) (st : State) : Option Sha1Digest :=
  match receivedAfter st.received.length (runHost (shaHash s ++ shaRead) st) with
  | [a, b, c, d, e] => some (sha1DigestOf ⟨a, b, c, d, e⟩)
  | _ => none

/-- `CRC32(s)`: the digest read after `crc.hash "s"` (R186), on an instance in state `st` with nothing pending. With events
pending, R186 leaves the value open and this one says nothing of the digest: DESIGN CHOICE (log 21), safe. -/
def oneShotCrc32 (s : List Byte) (st : State) : Option Crc32Digest :=
  match receivedAfter st.received.length (runHost (crcHash s ++ crcRead) st) with
  | [v] => some (crc32DigestOf v)
  | _ => none

end Sys2Proof.Machine
end

