-- ==== Sys2Proof/Machine/Assembler.lean ====
section
/-! DEFINITION. The assembler of 30_encoding.md R76 and R77: the accesses a line stands for, and the reading of a line's text.
It adds nothing to the hardware (92_eei_decisions.md D24). The spacing and number forms that R76 leaves open are in log 12. -/

namespace Sys2Proof.Machine

/-! ### What a line stands for -/

/-- The code of an ASCII character as a byte. -/
def charByte (c : Char) : Byte := BitVec.ofNat 8 c.toNat

/-- The value of a byte operand (R76). -/
def asmByteValue : AsmByte → Byte
  | .dec n => BitVec.ofNat 8 n
  | .hex n => BitVec.ofNat 8 n
  | .chr c => charByte c

/-- The ASCII bytes of a string (R77). -/
def asciiBytes (s : List Char) : List Byte := s.map charByte

/-- The accesses of a well-formed line (R76, R77). -/
def lineAccesses : AsmLine → List HostAccess
  | .nop => [writeCmd (encode .nop)]
  | .clrErr => [writeCmd (encode .clrErr)]
  | .shaReset => [writeCmd (encode .shaReset)]
  | .shaAppend b => [writeCmd (encode (.shaAppend (asmByteValue b)))]
  | .shaGet => [writeCmd (encode .shaGet)]
  | .crcReset => [writeCmd (encode .crcReset)]
  | .crcAppend b => [writeCmd (encode (.crcAppend (asmByteValue b)))]
  | .crcGet => [writeCmd (encode .crcGet)]
  | .word v => [writeCmd (BitVec.ofNat 32 v)]
  | .rd r => [readReg r]
  | .wr r v => [.write (regOffset r) 32 (BitVec.ofNat 32 v)]
  | .shaFeed s => shaFeed (asciiBytes s)
  | .crcFeed s => crcFeed (asciiBytes s)
  | .shaHash s => shaHash (asciiBytes s)
  | .crcHash s => crcHash (asciiBytes s)
  | .shaRead => shaRead
  | .crcRead => crcRead

/-- Assemble a line; none is an assembly error (R76: "any other value is an assembly error"). -/
def assemble (l : AsmLine) : Option (List HostAccess) := if l.wellFormed then some (lineAccesses l) else none

/-! ### Reading a line's text -/

/-- The value of a decimal digit. -/
def decDigit (c : Char) : Option Nat := if '0' ≤ c ∧ c ≤ '9' then some (c.toNat - '0'.toNat) else none

/-- The value of a hexadecimal digit, either case. -/
def hexDigitValue (c : Char) : Option Nat :=
  if '0' ≤ c ∧ c ≤ '9' then some (c.toNat - '0'.toNat)
  else if 'a' ≤ c ∧ c ≤ 'f' then some (c.toNat - 'a'.toNat + 10)
  else if 'A' ≤ c ∧ c ≤ 'F' then some (c.toNat - 'A'.toNat + 10)
  else none

/-- A number from its digits in a base, most significant first, on top of the value read so far. -/
def digitsValue (base : Nat) (digit : Char → Option Nat) : List Char → Nat → Option Nat
  | [], acc => some acc
  | c :: cs, acc => (digit c).bind fun d => digitsValue base digit cs (acc * base + d)

/-- A non-empty number. -/
def readNumber (base : Nat) (digit : Char → Option Nat) (cs : List Char) : Option Nat :=
  if cs.isEmpty then none else digitsValue base digit cs 0

/-- A byte operand: `'c'`, `0xHH` with two digits, or decimal (R76). -/
def readAsmByte : List Char → Option AsmByte
  | ['\'', c, '\''] => some (.chr c)
  | ['0', 'x', h, l] => (readNumber 16 hexDigitValue [h, l]).map .hex
  | cs => (readNumber 10 decDigit cs).map .dec

/-- A 32-bit value: `0x` and hexadecimal digits, or decimal. -/
def readValue : List Char → Option Nat
  | '0' :: 'x' :: cs => readNumber 16 hexDigitValue cs
  | cs => readNumber 10 decDigit cs

/-- A string operand: characters between double quotes (R77). -/
def readString : List Char → Option (List Char)
  | '"' :: cs =>
    match cs.reverse with
    | '"' :: rest => if '"' ∈ rest then none else some rest.reverse
    | _ => none
  | _ => none

/-- The names of the registers (10_state.md R30). -/
def regName : Reg → String
  | .cmd => "CMD"
  | .status => "STATUS"
  | .errCmd => "ERR_CMD"
  | .shaDigest 0 => "SHA_DIGEST0"
  | .shaDigest 1 => "SHA_DIGEST1"
  | .shaDigest 2 => "SHA_DIGEST2"
  | .shaDigest 3 => "SHA_DIGEST3"
  | .shaDigest 4 => "SHA_DIGEST4"
  | .crcResult => "CRC_RESULT"
  | .shaH 0 => "SHA_H0"
  | .shaH 1 => "SHA_H1"
  | .shaH 2 => "SHA_H2"
  | .shaH 3 => "SHA_H3"
  | .shaH 4 => "SHA_H4"
  | .shaPendlen => "SHA_PENDLEN"
  | .shaBlkcntLo => "SHA_BLKCNT_LO"
  | .shaBlkcntHi => "SHA_BLKCNT_HI"
  | .crcAcc => "CRC_ACC"

/-- A register by its name. -/
def readRegName (cs : List Char) : Option Reg := allRegs.find? fun r => (regName r).toList == cs

/-- A line without operand, by its mnemonic (R76, R77). -/
def bareLine (m : List Char) : Option AsmLine :=
  if m = "nop".toList then some .nop
  else if m = "clr.err".toList then some .clrErr
  else if m = "sha.reset".toList then some .shaReset
  else if m = "sha.get".toList then some .shaGet
  else if m = "crc.reset".toList then some .crcReset
  else if m = "crc.get".toList then some .crcGet
  else if m = "sha.read".toList then some .shaRead
  else if m = "crc.read".toList then some .crcRead
  else none

/-- `<REGNAME>, <value>` (R76). -/
def readWr (cs : List Char) : Option AsmLine :=
  match cs.span (fun c => c != ',') with
  | (name, ',' :: rest) =>
    (readRegName name).bind fun r => (readValue (rest.dropWhile fun c => c == ' ')).map fun v => .wr r v
  | _ => none

/-- A line with an operand, by its mnemonic (R76, R77). -/
def operandLine (m arg : List Char) : Option AsmLine :=
  if m = "sha.append".toList then (readAsmByte arg).map .shaAppend
  else if m = "crc.append".toList then (readAsmByte arg).map .crcAppend
  else if m = ".word".toList then (readValue arg).map .word
  else if m = "rd".toList then (readRegName arg).map .rd
  else if m = "wr".toList then readWr arg
  else if m = "sha.feed".toList then (readString arg).map .shaFeed
  else if m = "crc.feed".toList then (readString arg).map .crcFeed
  else if m = "sha.hash".toList then (readString arg).map .shaHash
  else if m = "crc.hash".toList then (readString arg).map .crcHash
  else none

/-- One line of text: the mnemonic, then the operand if any (R76). -/
def readLine (cs : List Char) : Option AsmLine :=
  match cs.span (fun c => c != ' ') with
  | (m, []) => bareLine m
  | (m, rest) => operandLine m (rest.dropWhile fun c => c == ' ')

/-- One line of text to its accesses; none is an assembly error. -/
def assembleText (cs : List Char) : Option (List HostAccess) := (readLine cs).bind assemble

/-- The accesses of a program, one command per line, in order (R76); none if any line is an error. -/
def assembleLines : List AsmLine → Option (List HostAccess)
  | [] => some []
  | l :: ls => (assemble l).bind fun a => (assembleLines ls).map fun rest => a ++ rest

end Sys2Proof.Machine
end

