-- ==== Sys2Proof/Machine/Platform.lean ====
section
/-! DEFINITION. A platform of N_ENGINES instances (60_exceptions.md R214), each with its own window at its own base on the
host's bus (20_memory.md R50), its own host agent (70_reset_and_hazards.md R237) and its reset domain (R231). The open
parameters are the argument `cfg` of every function (00_scope.md R6; log 7). An instance runs by the one-instance machine
of Machine/Access.lean, with offsets in its own window. -/

namespace Sys2Proof.Machine

/-- What happens on the platform: an access by an agent, whose offset is a byte address on the bus, or the reset signal of
one domain. -/
inductive PlatformEvent where
  | access (agent : Nat) (a : HostAccess)
  | reset (domain : Nat)
deriving DecidableEq, Repr

/-- The instances in the order of the configuration, the events that have not happened yet (oldest first), and the values
read so far, each with the agent that read it. The last two are host state (log 1). -/
structure Platform where
  engines  : List Engine
  pending  : List PlatformEvent
  received : List (Nat × Word)
deriving DecidableEq, Repr

/-- After power-up every instance is in its reset state (60_exceptions.md R216). -/
def Platform.reset (cfg : PlatformConfig) : Platform where
  engines := cfg.instances.map fun _ => Engine.reset
  pending := []
  received := []

/-- The byte address an access names. -/
def accessAddr : HostAccess → Nat
  | .read addr _ => addr
  | .write addr _ _ => addr

/-- The same access at an offset from `base`. -/
def accessFrom (base : Nat) : HostAccess → HostAccess
  | .read addr width => .read (addr - base) width
  | .write addr width data => .write (addr - base) width data

/-- An address lies in the window of an instance (20_memory.md R50). -/
def inWindow (c : InstanceConfig) (addr : Nat) : Bool := decide (c.base ≤ addr ∧ addr < c.base + windowBytes)

/-- The instance whose window holds an address. An access is placed by the address of its first byte alone: one that begins
below a window and reaches into it is no access to that window. DESIGN CHOICE (log 23), safe: R50 does not say which it
is. -/
def instanceAt (cfg : PlatformConfig) (addr : Nat) : Option Nat := cfg.instances.findIdx? fun c => inWindow c addr

/-- The one-instance machine at an instance, with nothing pending and nothing received. -/
def portOf (e : Engine) : State := { eng := e, pending := [], received := [] }

/-- An access by an agent, at the instance whose window it addresses. Only that instance's state changes, and only as the
one-instance machine says (60_exceptions.md R214). An access whose first byte lies in no window (log 7, log 23), and an agent
other than the instance's own (70_reset_and_hazards.md R237: "does not model two"), are refused. -/
def Platform.performAccess (cfg : PlatformConfig) (agent : Nat) (a : HostAccess) (p : Platform) :
    Host.Outcome Platform Fault Refusal :=
  match instanceAt cfg (accessAddr a) with
  | none => .refused (.outsideEveryWindow (accessAddr a))
  | some k =>
    match cfg.instances[k]?, p.engines[k]? with
    | some c, some e =>
      if agent = c.agent then
        match Sys2Proof.Machine.performAccess (accessFrom c.base a) (portOf e) with
        | .next s => .next { p with
            engines := p.engines.set k s.eng
            received := p.received ++ s.received.map fun v => (agent, v) }
        | .fault f => .fault f
        | .refused r => .refused r
      else .refused (.secondHostAgent agent)
    | _, _ => .refused (.outsideEveryWindow (accessAddr a))

/-- The reset signal of a domain: every instance of that domain, at once, and no other (70_reset_and_hazards.md R230,
R231). -/
def Platform.resetDomain (cfg : PlatformConfig) (d : Nat) (p : Platform) : Platform :=
  { p with engines := List.zipWith (fun c e => if c.domain = d then Engine.hardwareReset e else e) cfg.instances p.engines }

/-- One step of the platform: its oldest event, or nothing when there is none. -/
def Platform.step (cfg : PlatformConfig) (p : Platform) : Host.Outcome Platform Fault Refusal :=
  match p.pending with
  | [] => .next p
  | .access agent a :: rest => Platform.performAccess cfg agent a { p with pending := rest }
  | .reset d :: rest => .next (Platform.resetDomain cfg d { p with pending := rest })

end Sys2Proof.Machine
end

