-- ==== Sys2Proof/Safety.lean ====
section
/-! DEFINITION. What counts as a legal state and a safe run, in the terms statements use. -/

namespace Sys2Proof.Machine

/-- The error record is clear, or it holds a word that decodes to the recorded cause (10_state.md R28, R29; 60_exceptions.md
R201, R203). -/
def errorRecordOk (e : Engine) : Prop :=
  (e.err = false ∧ e.errCode = 0 ∧ e.errCmd = 0) ∨
    (e.err = true ∧ ∃ code, decode e.errCmd = .illegal code ∧ e.errCode = errCodeOf code)

/-- A legal engine state: at most 63 pending bytes (10_state.md R24), a truthful error record, and result registers that
still hold their reset value while no GET has executed (70_reset_and_hazards.md R236). -/
structure Engine.Legal (e : Engine) : Prop where
  bufBound : e.shaBuf.length < blockBytes
  record : errorRecordOk e
  digUnset : e.shaValid = false → e.resDig = ⟨0, 0, 0, 0, 0⟩
  crcUnset : e.crcValid = false → e.resCrc = 0

/-- The invariant of the machine: its engine is legal, whatever the host has issued. -/
def State.Legal (s : State) : Prop := s.eng.Legal

/-- An access the window admits (20_memory.md R52). -/
def Admitted (a : HostAccess) : Prop := ∀ off, admission a ≠ .busError off

/-- An event that cannot end in BusError. -/
def SafeEvent : HostEvent → Prop
  | .access a => Admitted a
  | .reset => True

/-- A safe state of the machine: every access the host still has to perform is admitted. -/
def Safe (s : State) : Prop := ∀ ev ∈ s.pending, SafeEvent ev

/-! ### What happens next, for statements to speak of -/

/-- The oldest pending event is the 32-bit write of `w` to CMD. -/
def Issues (s : State) (w : Word) (rest : List HostEvent) : Prop := s.pending = .access (.write 0x00 32 w) :: rest

/-- The oldest pending event is the 32-bit read of the register at `off`. -/
def Reads (s : State) (off : Nat) (rest : List HostEvent) : Prop := s.pending = .access (.read off 32) :: rest

/-- The oldest pending event is the hardware reset signal. -/
def ResetSignal (s : State) (rest : List HostEvent) : Prop := s.pending = .reset :: rest

/-- A 32-bit read at `off` is admitted in every state, hands the host `v` of the engine, and changes nothing else. -/
def ReadGives (off : Nat) (v : Engine → Word) : Prop :=
  ∀ s rest, Reads s off rest → step s = .next { s with pending := rest, received := s.received ++ [v s.eng] }

/-- Every word `m` with a non-zero low byte is IllegalCommand code 3, NONZERO_IMM (60_exceptions.md R201): its write to CMD
records the error if none is recorded yet, and has no other effect. -/
def RejectedNeighbours (m : Word) : Prop :=
  ∀ nn : Byte, nn ≠ 0 →
    decode (m ||| nn.setWidth 32) = .illegal .nonzeroImm ∧
    ∀ s rest, Issues s (m ||| nn.setWidth 32) rest → step s = .next { s with pending := rest, eng :=
      if s.eng.err then s.eng else { s.eng with err := true, errCode := 3, errCmd := m ||| nn.setWidth 32 } }

/-- The commands of the SHA-1 unit. -/
def shaCommand : Instr → Bool
  | .shaReset => true
  | .shaAppend _ => true
  | .shaGet => true
  | .nop => false
  | .clrErr => false
  | .crcReset => false
  | .crcAppend _ => false
  | .crcGet => false

/-- The commands of the CRC-32 unit. -/
def crcCommand : Instr → Bool
  | .crcReset => true
  | .crcAppend _ => true
  | .crcGet => true
  | .nop => false
  | .clrErr => false
  | .shaReset => false
  | .shaAppend _ => false
  | .shaGet => false

/-- What the SHA-1 unit owns: its state, its result registers and its VALID bit (60_exceptions.md R214). -/
def shaPart (e : Engine) : Words5 × List Byte × DWord × Words5 × Bool :=
  (e.shaH, e.shaBuf, e.shaBlk, e.resDig, e.shaValid)

/-- What the CRC-32 unit owns (60_exceptions.md R214). -/
def crcPart (e : Engine) : Word × Word × Bool := (e.crcAcc, e.resCrc, e.crcValid)

/-- The error record (60_exceptions.md R203). -/
def errorPart (e : Engine) : Bool × BitVec 4 × Word := (e.err, e.errCode, e.errCmd)

/-- The engine with another error record. -/
def withErrorRecord (err : Bool) (code : BitVec 4) (w : Word) (e : Engine) : Engine :=
  { e with err := err, errCode := code, errCmd := w }

end Sys2Proof.Machine
end

