-- ==== Sys2Proof/Certificates/Slice0/Obligations.lean ====
section
/-! DEFINITION. The statements for the provers. Each docstring names the rules of spec/ it formalises. No statement rests on a
value the model chose. `pending` and `received` are the model's form of the host's side (log 1): a statement mentions them
only to say which access a step performs, what is left to perform and what the host is given. -/

open Sys2Proof Sys2Proof.Machine

/-! ### Reset -/

/-- R40: every state element after hardware reset. -/
def Obligations.ResetStateHasTheListedValues : Prop :=
  State.reset.eng.shaH = ⟨0x67452301, 0xEFCDAB89, 0x98BADCFE, 0x10325476, 0xC3D2E1F0⟩ ∧
  State.reset.eng.shaBuf = [] ∧ State.reset.eng.shaBlk = 0 ∧ State.reset.eng.crcAcc = 0xFFFFFFFF ∧
  State.reset.eng.resDig = ⟨0, 0, 0, 0, 0⟩ ∧ State.reset.eng.resCrc = 0 ∧
  State.reset.eng.err = false ∧ State.reset.eng.errCode = 0 ∧ State.reset.eng.shaValid = false ∧
  State.reset.eng.crcValid = false ∧ State.reset.eng.errCmd = 0

/-- R230: the reset signal puts the whole instance, in any state, into the state of R40, in one step; STATUS is then 0. -/
def Obligations.ResetSignalSetsEveryElement : Prop :=
  ∀ s rest, ResetSignal s rest → ∃ t, step s = .next t ∧ statusWord t.eng = 0 ∧ t.eng =
      { shaH := ⟨0x67452301, 0xEFCDAB89, 0x98BADCFE, 0x10325476, 0xC3D2E1F0⟩, shaBuf := [], shaBlk := 0,
        crcAcc := 0xFFFFFFFF, resDig := ⟨0, 0, 0, 0, 0⟩, resCrc := 0, err := false, errCode := 0, shaValid := false,
        crcValid := false, errCmd := 0 }

/-- R230, R40: the invariant holds after reset. -/
def Obligations.ResetStateIsLegal : Prop := State.reset.Legal

/-! ### Commands: effect, encoding and the illegal neighbours of the encoding -/

/-- R90. -/
def Obligations.NopWritesNothing : Prop :=
  (∀ s, exec .nop s = .next s) ∧ decode 0x00000000 = .command .nop ∧
  RejectedNeighbours 0x00000000

/-- R91. -/
def Obligations.ClrErrClearsOnlyTheRecord : Prop :=
  (∀ s, exec .clrErr s = .next { s with eng := { s.eng with err := false, errCode := 0, errCmd := 0 } }) ∧
  decode 0x00000100 = .command .clrErr ∧
  RejectedNeighbours 0x00000100

/-- R130. -/
def Obligations.ShaResetRestoresTheUnit : Prop :=
  (∀ s, exec .shaReset s = .next { s with eng := { s.eng with
    shaH := ⟨0x67452301, 0xEFCDAB89, 0x98BADCFE, 0x10325476, 0xC3D2E1F0⟩, shaBlk := 0, shaBuf := [] } }) ∧
  decode 0x00001000 = .command .shaReset ∧
  RejectedNeighbours 0x00001000

/-- R131, R132: the append that makes the buffer 64 bytes runs the block step, every other append lengthens the buffer; for
every byte, and with every other element unchanged. -/
def Obligations.ShaAppendTakesOneByte : Prop :=
  (∀ (b : Byte) s, s.eng.shaBuf.length + 1 ≠ 64 →
    exec (.shaAppend b) s = .next { s with eng := { s.eng with shaBuf := s.eng.shaBuf ++ [b] } }) ∧
  (∀ (b : Byte) s, s.eng.shaBuf.length + 1 = 64 →
    exec (.shaAppend b) s = .next { s with eng := { s.eng with
      shaH := sha1Transform s.eng.shaH (s.eng.shaBuf ++ [b]), shaBuf := [],
      shaBlk := BitVec.ofNat 64 ((s.eng.shaBlk.toNat + 1) % 2 ^ 64) } }) ∧
  ∀ b : Byte, decode (0x00001100 ||| b.setWidth 32) = .command (.shaAppend b)

/-- R133: the digest goes to RES.DIG, SHA_VALID is set, and nothing else is written, the unit's own state included. -/
def Obligations.ShaGetWritesOnlyTheSnapshot : Prop :=
  (∀ s, exec .shaGet s = .next { s with eng := { s.eng with
    resDig := sha1Finalize s.eng.shaH s.eng.shaBuf s.eng.shaBlk, shaValid := true } }) ∧
  decode 0x00001200 = .command .shaGet ∧
  RejectedNeighbours 0x00001200

/-- R162. -/
def Obligations.CrcResetRestoresTheAccumulator : Prop :=
  (∀ s, exec .crcReset s = .next { s with eng := { s.eng with crcAcc := 0xFFFFFFFF } }) ∧
  decode 0x00002000 = .command .crcReset ∧
  RejectedNeighbours 0x00002000

/-- R163: the index is the low byte of `ACC ^ IMM8`, the shift is logical, and only the accumulator is written. -/
def Obligations.CrcAppendFoldsOneByte : Prop :=
  (∀ (b : Byte) s, exec (.crcAppend b) s = .next { s with eng := { s.eng with
    crcAcc := crcTable (s.eng.crcAcc.extractLsb' 0 8 ^^^ b) ^^^ BitVec.ofNat 32 (s.eng.crcAcc.toNat / 256) } }) ∧
  ∀ b : Byte, decode (0x00002100 ||| b.setWidth 32) = .command (.crcAppend b)

/-- R164, R165: RES.CRC gets the complement of the accumulator, CRC_VALID is set, nothing else is written. -/
def Obligations.CrcGetWritesOnlyTheSnapshot : Prop :=
  (∀ s, exec .crcGet s = .next { s with eng := { s.eng with
    resCrc := s.eng.crcAcc ^^^ 0xFFFFFFFF, crcValid := true } }) ∧
  decode 0x00002200 = .command .crcGet ∧
  RejectedNeighbours 0x00002200

/-- R206: every command, in every state, completes with a next state and raises no error: the error record is what it was,
but for CLR_ERR. -/
def Obligations.EveryLegalCommandCompletes : Prop :=
  ∀ i s, ∃ t, exec i s = .next t ∧ (i ≠ .clrErr → errorPart t.eng = errorPart s.eng)

/-- R205: what a command does to everything else is independent of the error record, and every command but CLR_ERR leaves
the record as it is. -/
def Obligations.CommandsRunWhileAnErrorIsRecorded : Prop :=
  ∀ i s err code w, i ≠ .clrErr → ∃ t, exec i s = .next t ∧
    exec i { s with eng := withErrorRecord err code w s.eng } =
      .next { t with eng := withErrorRecord err code w t.eng }

/-- What each command leaves unchanged, as the host reads it: every register of the window reads as before except those
named, and STATUS changes in the bits named only. -/
def Obligations.CommandsLeaveOtherRegistersReadingAsBefore : Prop :=
  ∀ i s, ∃ t, exec i s = .next t ∧ t.pending = s.pending ∧ t.received = s.received ∧
    match i with
    | .nop => ∀ r, regValue t.eng r = regValue s.eng r
    | .clrErr => (∀ r, r ≠ .status → r ≠ .errCmd → regValue t.eng r = regValue s.eng r) ∧
        statusWord t.eng = statusWord s.eng &&& 0xFFFFFF0E
    | .shaReset => ∀ r, (∀ k, r ≠ .shaH k) → r ≠ .shaPendlen → r ≠ .shaBlkcntLo → r ≠ .shaBlkcntHi →
        regValue t.eng r = regValue s.eng r
    | .shaAppend _ => ∀ r, (∀ k, r ≠ .shaH k) → r ≠ .shaPendlen → r ≠ .shaBlkcntLo → r ≠ .shaBlkcntHi →
        regValue t.eng r = regValue s.eng r
    | .shaGet => (∀ r, (∀ k, r ≠ .shaDigest k) → r ≠ .status → regValue t.eng r = regValue s.eng r) ∧
        statusWord t.eng = statusWord s.eng ||| 0x00000002
    | .crcReset => ∀ r, r ≠ .crcAcc → regValue t.eng r = regValue s.eng r
    | .crcAppend _ => ∀ r, r ≠ .crcAcc → regValue t.eng r = regValue s.eng r
    | .crcGet => (∀ r, r ≠ .crcResult → r ≠ .status → regValue t.eng r = regValue s.eng r) ∧
        statusWord t.eng = statusWord s.eng ||| 0x00000004

/-! ### Decoding -/

/-- R73, R74, R202: which words are illegal, and with which cause; every other word is a command. -/
def Obligations.DecodeFollowsItsThreeTests : Prop :=
  ∀ w : Word,
    let opcDefined := w.extractLsb' 8 8 ∈ [0x00, 0x01, 0x10, 0x11, 0x12, 0x20, 0x21, (0x22 : Byte)]
    let immAllowed := w.extractLsb' 8 8 = (0x11 : Byte) ∨ w.extractLsb' 8 8 = (0x21 : Byte) ∨ w.extractLsb' 0 8 = (0 : Byte)
    (decode w = .illegal .reservedBits ↔ 0x10000 ≤ w.toNat) ∧
    (decode w = .illegal .undefinedOpc ↔ w.toNat < 0x10000 ∧ ¬ opcDefined) ∧
    (decode w = .illegal .nonzeroImm ↔ w.toNat < 0x10000 ∧ opcDefined ∧ ¬ immAllowed) ∧
    ((∃ i, decode w = .command i) ↔ w.toNat < 0x10000 ∧ opcDefined ∧ immAllowed)

/-- R72: a word is a command exactly when `w & mask = match`, and the byte of an append is `w[7:0]`. -/
def Obligations.MaskAndMatchDecideTheCommand : Prop :=
  ∀ w : Word,
    (decode w = .command .nop ↔ w &&& 0xFFFFFFFF = 0x00000000) ∧
    (decode w = .command .clrErr ↔ w &&& 0xFFFFFFFF = 0x00000100) ∧
    (decode w = .command .shaReset ↔ w &&& 0xFFFFFFFF = 0x00001000) ∧
    (∀ b, decode w = .command (.shaAppend b) ↔ w &&& 0xFFFFFF00 = 0x00001100 ∧ b = w.extractLsb' 0 8) ∧
    (decode w = .command .shaGet ↔ w &&& 0xFFFFFFFF = 0x00001200) ∧
    (decode w = .command .crcReset ↔ w &&& 0xFFFFFFFF = 0x00002000) ∧
    (∀ b, decode w = .command (.crcAppend b) ↔ w &&& 0xFFFFFF00 = 0x00002100 ∧ b = w.extractLsb' 0 8) ∧
    (decode w = .command .crcGet ↔ w &&& 0xFFFFFFFF = 0x00002200)

/-- Decode and encode agree in both directions: a word decodes to an instruction exactly when it is that instruction's
word. -/
def Obligations.DecodeAndEncodeAgree : Prop :=
  ∀ (w : Word) (i : Instr), decode w = .command i ↔ encode i = w

/-- Words written out from R72's bits, and the table word interface. -/
def Obligations.WrittenOutWordsDecode : Prop :=
  decodeTableWord 32 0b00000000000000000000000000000000 = some .nop ∧
  decodeTableWord 32 0b00000000000000000000000100000000 = some .clrErr ∧
  decodeTableWord 32 0b00000000000000000001000000000000 = some .shaReset ∧
  decodeTableWord 32 0b00000000000000000001000110100101 = some (.shaAppend 0xA5) ∧
  decodeTableWord 32 0b00000000000000000001001000000000 = some .shaGet ∧
  decodeTableWord 32 0b00000000000000000010000000000000 = some .crcReset ∧
  decodeTableWord 32 0b00000000000000000010000100110001 = some (.crcAppend 0x31) ∧
  decodeTableWord 32 0b00000000000000000010001000000000 = some .crcGet ∧
  decodeTableWord 32 0b00000000000000010000000000000000 = none

/-! ### A step -/

/-- R54: an admitted write to CMD decodes and executes its word in the same step; this is where every statement about a
command reaches a run. The second clause is about `withFetchWord`, which is the model's choice (log 2): no rule of the spec
speaks of it. -/
def Obligations.StepRunsTheDecodedCommand : Prop :=
  (∀ s w i rest, Issues s w rest → decode w = .command i → step s = exec i { s with pending := rest }) ∧
  ∀ s w i, decode w = .command i → step (s.withFetchWord 32 w.toNat) = exec i s

/-- R203, R204: an illegal word is recorded if no error is recorded yet, and has no other effect; a second one has no effect
at all; and a recorded error stays as it is through every step but a CLR_ERR command and a hardware reset. -/
def Obligations.IllegalCommandIsRecordedOnceAndKept : Prop :=
  (∀ s w code rest, Issues s w rest → decode w = .illegal code →
    let number : BitVec 4 := match code with | .reservedBits => 1 | .undefinedOpc => 2 | .nonzeroImm => 3
    (s.eng.err = false → step s = .next { s with pending := rest, eng :=
      { s.eng with err := true, errCode := number, errCmd := w } }) ∧
    (s.eng.err = true → step s = .next { s with pending := rest })) ∧
  ∀ s t, step s = .next t → s.eng.err = true →
    (∀ rest, ¬ ResetSignal s rest) → (∀ rest, ¬ Issues s 0x00000100 rest) → errorPart t.eng = errorPart s.eng

/-- R92: every admitted CMD write completes in its step, which executes the command or records the rejection; no event but
an admitted CMD write and hardware reset changes engine state. -/
def Obligations.OnlyCommandsAndResetChangeTheEngine : Prop :=
  (∀ s w rest, Issues s w rest → ∃ t, step s = .next t ∧
    (∀ i, decode w = .command i → exec i { s with pending := rest } = .next t) ∧
    ∀ code, decode w = .illegal code →
      let number : BitVec 4 := match code with | .reservedBits => 1 | .undefinedOpc => 2 | .nonzeroImm => 3
      t.eng = if s.eng.err then s.eng else { s.eng with err := true, errCode := number, errCmd := w }) ∧
  ∀ s t, step s = .next t → t.eng ≠ s.eng → (∃ rest, ResetSignal s rest) ∨ ∃ w rest, Issues s w rest

/-- R52: which accesses are admitted. -/
def Obligations.AdmittedAccessesAreTheListedOnes : Prop :=
  (∀ off width, Admitted (.read off width) ↔ width = 32 ∧ off % 4 = 0 ∧
    off ∈ [0x04, 0x08, 0x10, 0x14, 0x18, 0x1C, 0x20, 0x24, 0x30, 0x34, 0x38, 0x3C, 0x40, 0x44, 0x48, 0x4C, 0x50]) ∧
  ∀ off width (data : BitVec width), Admitted (.write off width data) ↔ width = 32 ∧ off % 4 = 0 ∧ off = 0x00

/-- R53, R207, R208: an access that is not admitted faults the host's step with BusError, whatever its data, and changes
nothing: no engine state, and nothing is handed to the host. For an offset of 0x100 or more, which lies in no window, this is
the model's choice (log 22): no rule speaks of it. -/
def Obligations.RefusedAccessFaultsAndChangesNothing : Prop :=
  ∀ a s rest, ¬ Admitted a → s.pending = .access a :: rest →
    step s = .fault (.busError (accessAddr a)) ∧ completionOf a s = .busError (accessAddr a) ∧ effectOf a s = .next s

/-- R206, R207: a step faults exactly on an access that is not admitted, and is never refused. That an access at an offset of
0x100 or more is one of those that fault is the model's choice (log 22). -/
def Obligations.OnlyRefusedAccessesFault : Prop :=
  (∀ s f, step s = .fault f ↔ ∃ a rest, s.pending = .access a :: rest ∧ ¬ Admitted a ∧ f = .busError (accessAddr a)) ∧
  ∀ s r, step s ≠ .refused r

/-- R55: what an admitted read returns, for every register but CMD, by R32 to R39; the read changes nothing but what the host
has received. -/
def Obligations.ReadsReturnTheRegisters : Prop :=
  ReadGives 0x04 (fun e => (e.errCode.setWidth 32 <<< 4) ||| ((BitVec.ofBool e.crcValid).setWidth 32 <<< 2) |||
    ((BitVec.ofBool e.shaValid).setWidth 32 <<< 1) ||| (BitVec.ofBool e.err).setWidth 32) ∧
  ReadGives 0x08 (·.errCmd) ∧
  ReadGives 0x10 (·.resDig.w0) ∧ ReadGives 0x14 (·.resDig.w1) ∧ ReadGives 0x18 (·.resDig.w2) ∧
  ReadGives 0x1C (·.resDig.w3) ∧ ReadGives 0x20 (·.resDig.w4) ∧ ReadGives 0x24 (·.resCrc) ∧
  ReadGives 0x30 (·.shaH.w0) ∧ ReadGives 0x34 (·.shaH.w1) ∧ ReadGives 0x38 (·.shaH.w2) ∧
  ReadGives 0x3C (·.shaH.w3) ∧ ReadGives 0x40 (·.shaH.w4) ∧
  ReadGives 0x44 (fun e => BitVec.ofNat 32 (e.shaBuf.length % 64)) ∧
  ReadGives 0x48 (fun e => BitVec.ofNat 32 e.shaBlk.toNat) ∧
  ReadGives 0x4C (fun e => BitVec.ofNat 32 (e.shaBlk.toNat / 2 ^ 32)) ∧ ReadGives 0x50 (·.crcAcc)

/-- R24, R215: the bytes of SHA.BUF cannot be read: no register shows more of them than their number. -/
def Obligations.BufferBytesCannotBeRead : Prop :=
  ∀ (e : Engine) (b : List Byte), b.length = e.shaBuf.length → ∀ r, regValue { e with shaBuf := b } r = regValue e r

/-- R32: the value a read of STATUS returns, bit by bit. -/
def Obligations.StatusReadsItsFields : Prop :=
  ∃ v : Engine → Word, ReadGives 0x04 v ∧ ∀ e,
    (v e).getLsbD 0 = e.err ∧ (v e).getLsbD 1 = e.shaValid ∧ (v e).getLsbD 2 = e.crcValid ∧ (v e).getLsbD 3 = false ∧
    (v e).extractLsb' 4 4 = e.errCode ∧ (v e).extractLsb' 8 24 = 0

/-- R38: the two halves read back to back are one consistent SHA.BLK. -/
def Obligations.BlockCountHalvesAreConsistent : Prop :=
  ∀ s rest, s.pending = .access (.read 0x48 32) :: .access (.read 0x4C 32) :: rest →
    ∃ lo hi : Word, runSteps 2 s =
      .next { s with pending := rest, received := s.received ++ [lo, hi] } ∧
      hi ++ lo = s.eng.shaBlk

/-- R238, R59: a read issued after a CMD write returns the value that command left. -/
def Obligations.ReadAfterCommandSeesItsEffect : Prop :=
  ∀ s w i t r v rest, s.pending = .access (.write 0x00 32 w) :: .access (.read (regOffset r) 32) :: rest →
    decode w = .command i → exec i { s with pending := rest } = .next t → regValue t.eng r = some v →
    runSteps 2 s = .next { t with received := s.received ++ [v] }

/-! ### Invariant and safe runs -/

/-- R24, R28, R29, R236: every step keeps the state legal: at most 63 pending bytes, an error record that is clear or names
the true cause of the word it holds, and result registers that are 0 until their first GET. -/
def Obligations.EveryStepKeepsTheStateLegal : Prop :=
  ∀ s t : State, s.Legal → step s = .next t → t.Legal

/-- In a legal state whose VALID bit is 0, the result registers read 0 (R236). -/
def Obligations.ResultsReadZeroUntilValid : Prop :=
  ∀ s : State, s.Legal →
    (s.eng.shaValid = false → ∀ k, regValue s.eng (.shaDigest k) = some 0) ∧
    (s.eng.crcValid = false → regValue s.eng .crcResult = some 0)

/-- R92, R206, and R55 and R230 for reads and resets: with every pending access admitted, the machine performs them all, one
a step, whatever the words are. That steps past the last pending event go on is the model's reading (log 3). -/
def Obligations.SafeRunsComplete : Prop :=
  ∀ k s, Safe s → ∃ t, runSteps k s = .next t ∧ t.pending = s.pending.drop k ∧ Safe t

/-! ### Whole-machine rules -/

/-- R27: RES.DIG is written only by SHA_GET and RES.CRC only by CRC_GET (and by hardware reset, to 0). -/
def Obligations.ResultsAreWrittenOnlyByTheirGet : Prop :=
  State.reset.eng.resDig = ⟨0, 0, 0, 0, 0⟩ ∧ State.reset.eng.resCrc = 0 ∧
  ∀ s t, step s = .next t →
    (t.eng.resDig ≠ s.eng.resDig →
      (∃ rest, Issues s 0x00001200 rest) ∨ ((∃ rest, ResetSignal s rest) ∧ t.eng.resDig = ⟨0, 0, 0, 0, 0⟩)) ∧
    (t.eng.resCrc ≠ s.eng.resCrc →
      (∃ rest, Issues s 0x00002200 rest) ∨ ((∃ rest, ResetSignal s rest) ∧ t.eng.resCrc = 0))

/-- R232: the unit resets change neither results nor STATUS nor ERR_CMD nor the other unit; only hardware reset clears a
VALID bit. -/
def Obligations.OnlyHardwareResetClearsValid : Prop :=
  (∀ s t, step s = .next t → (∀ rest, ¬ ResetSignal s rest) →
    (s.eng.shaValid = true → t.eng.shaValid = true) ∧ (s.eng.crcValid = true → t.eng.crcValid = true)) ∧
  (∀ s rest, ResetSignal s rest → ∃ t, step s = .next t ∧ t.eng.shaValid = false ∧ t.eng.crcValid = false) ∧
  ∀ s, ∃ t u, exec .shaReset s = .next t ∧ exec .crcReset s = .next u ∧
    t.eng.resDig = s.eng.resDig ∧ t.eng.resCrc = s.eng.resCrc ∧ statusWord t.eng = statusWord s.eng ∧
    t.eng.errCmd = s.eng.errCmd ∧ crcPart t.eng = crcPart s.eng ∧
    u.eng.resDig = s.eng.resDig ∧ u.eng.resCrc = s.eng.resCrc ∧ statusWord u.eng = statusWord s.eng ∧
    u.eng.errCmd = s.eng.errCmd ∧ shaPart u.eng = shaPart s.eng

/-- R23, R24, R25, R26: who writes the unit state: SHA_RESET, an append and hardware reset for the SHA-1 unit (SHA.H and
SHA.BLK on an append only when it fills the block); CRC_RESET, CRC_APPEND and hardware reset for the accumulator. -/
def Obligations.UnitStateHasOnlyItsWriters : Prop :=
  ∀ s t, step s = .next t → (∀ rest, ¬ ResetSignal s rest) →
    (t.eng.shaBuf ≠ s.eng.shaBuf →
      (∃ rest, Issues s 0x00001000 rest) ∨ ∃ (b : Byte) (rest : List HostEvent), Issues s (0x00001100 ||| b.setWidth 32) rest) ∧
    (t.eng.shaH ≠ s.eng.shaH ∨ t.eng.shaBlk ≠ s.eng.shaBlk →
      (∃ rest, Issues s 0x00001000 rest) ∨
      (s.eng.shaBuf.length = 63 ∧ t.eng.shaBuf = [] ∧
        ∃ (b : Byte) (rest : List HostEvent), Issues s (0x00001100 ||| b.setWidth 32) rest)) ∧
    (t.eng.crcAcc ≠ s.eng.crcAcc →
      (∃ rest, Issues s 0x00002000 rest) ∨ ∃ (b : Byte) (rest : List HostEvent), Issues s (0x00002100 ||| b.setWidth 32) rest)

/-- R214: no command of one unit writes or reads the other's state. R205: none of a unit's commands touches the error record
or depends on it. -/
def Obligations.UnitsAreIndependent : Prop :=
  (∀ i s, shaCommand i = true → ∃ t, exec i s = .next t ∧ crcPart t.eng = crcPart s.eng ∧
    errorPart t.eng = errorPart s.eng) ∧
  (∀ i s, crcCommand i = true → ∃ t, exec i s = .next t ∧ shaPart t.eng = shaPart s.eng ∧
    errorPart t.eng = errorPart s.eng) ∧
  (∀ i s s', shaCommand i = true → shaPart s.eng = shaPart s'.eng →
    ∃ t t', exec i s = .next t ∧ exec i s' = .next t' ∧ shaPart t.eng = shaPart t'.eng) ∧
  (∀ i s s', crcCommand i = true → crcPart s.eng = crcPart s'.eng →
    ∃ t t', exec i s = .next t ∧ exec i s' = .next t' ∧ crcPart t.eng = crcPart t'.eng)

/-! ### The Block Transform -/

/-- R102, R103: the schedule of a block has 80 words, sixteen big-endian ones and 64 by the recurrence. -/
def Obligations.ScheduleFollowsItsRecurrence : Prop :=
  ∀ m : List Byte, m.length = 64 →
    (schedule m).length = 80 ∧
    (∀ t, t < 16 → (schedule m).getD t 0 =
      m.getD (4 * t) 0 ++ m.getD (4 * t + 1) 0 ++ m.getD (4 * t + 2) 0 ++ m.getD (4 * t + 3) 0) ∧
    (∀ t, 16 ≤ t → t < 80 → (schedule m).getD t 0 =
      ((schedule m).getD (t - 3) 0 ^^^ (schedule m).getD (t - 8) 0 ^^^ (schedule m).getD (t - 14) 0 ^^^
        (schedule m).getD (t - 16) 0).rotateLeft 1)

/-- R101, R104, R105, R106, R107: the boolean function of each stage as a formula, and its constant. The bit by bit reading
is inference: for stage 0 it is R104's sentence "For each bit position it selects `c` where `b` is 1 and `d` where `b` is 0",
which the spec marks [derived: from rule R104 by a truth table over one bit]. -/
def Obligations.StagesUseTheirFunctionAndConstant : Prop :=
  ∀ t, t < 80 →
    (∀ (b c d : Word) (i : Nat), (roundFn t b c d).getLsbD i =
      match t / 20 with
      | 0 => if b.getLsbD i then c.getLsbD i else d.getLsbD i
      | 1 => (b.getLsbD i).xor ((c.getLsbD i).xor (d.getLsbD i))
      | 2 => decide (2 ≤ (b.getLsbD i).toNat + (c.getLsbD i).toNat + (d.getLsbD i).toNat)
      | _ => (b.getLsbD i).xor ((c.getLsbD i).xor (d.getLsbD i))) ∧
    (∀ b c d : Word, roundFn t b c d =
      match t / 20 with
      | 0 => (b &&& (c ^^^ d)) ^^^ d
      | 1 => b ^^^ c ^^^ d
      | 2 => (b &&& c) ||| (b &&& d) ||| (c &&& d)
      | _ => b ^^^ c ^^^ d) ∧
    roundConst t = match t / 20 with
      | 0 => 0x5A827999
      | 1 => 0x6ED9EBA1
      | 2 => 0x8F1BBCDC
      | _ => 0xCA62C1D6

/-- R108 to R111: eighty rounds in order, each from the values before it, and the feed-forward. -/
def Obligations.TransformRunsEightyRounds : Prop :=
  ∀ (h : Words5) (m : List Byte), m.length = 64 →
    let v := (List.range 80).foldl (fun (v : Work) t =>
      { a := v.a.rotateLeft 5 + roundFn t v.b v.c v.d + v.e + roundConst t + (schedule m).getD t 0
        b := v.a, c := v.b.rotateLeft 30, d := v.c, e := v.d }) ⟨h.w0, h.w1, h.w2, h.w3, h.w4⟩
    sha1Transform h m = ⟨h.w0 + v.a, h.w1 + v.b, h.w2 + v.c, h.w3 + v.d, h.w4 + v.e⟩

/-- R103's derived clause: computing `W[t]` inside round `t`, with a window of sixteen words, gives the same transform. -/
def Obligations.RollingWindowGivesTheSameTransform : Prop :=
  ∀ (h : Words5) (m : List Byte), m.length = 64 → sha1TransformRolling h m = sha1Transform h m

/-! ### Finalisation -/

/-- R134, R135, R136, R137: one padding block up to 55 pending bytes, two from 56 to 63, and the bit length in the last
eight bytes, most significant first, modulo 2^64. -/
def Obligations.FinalisePadsInOneBlockOrTwo : Prop :=
  ∀ (h : Words5) (buf : List Byte) (blk : DWord),
    let bits : DWord := BitVec.ofNat 64 ((blk.toNat * 64 + buf.length) * 8 % 2 ^ 64)
    let len : List Byte := [bits.extractLsb' 56 8, bits.extractLsb' 48 8, bits.extractLsb' 40 8, bits.extractLsb' 32 8,
      bits.extractLsb' 24 8, bits.extractLsb' 16 8, bits.extractLsb' 8 8, bits.extractLsb' 0 8]
    (buf.length ≤ 55 → sha1Finalize h buf blk =
      sha1Transform h (buf ++ [0x80] ++ List.replicate (55 - buf.length) 0 ++ len)) ∧
    (56 ≤ buf.length → buf.length ≤ 63 → sha1Finalize h buf blk =
      sha1Transform (sha1Transform h (buf ++ [0x80] ++ List.replicate (63 - buf.length) 0))
        (List.replicate 56 0 ++ len))

/-- R137: bytes 56 to 63 of the final block are the bit length, most significant byte first; in its schedule `W[14]` is the
high word of the bit length and `W[15]` the low word. -/
def Obligations.LengthFieldIsTheLastTwoWords : Prop :=
  ∀ (p : List Byte) (bits : DWord), p.length ≤ 56 →
    (finalBlock p bits).length = 64 ∧
    (finalBlock p bits).drop 56 = [bits.extractLsb' 56 8, bits.extractLsb' 48 8, bits.extractLsb' 40 8,
      bits.extractLsb' 32 8, bits.extractLsb' 24 8, bits.extractLsb' 16 8, bits.extractLsb' 8 8, bits.extractLsb' 0 8] ∧
    (schedule (finalBlock p bits)).getD 14 0 = BitVec.ofNat 32 (bits.toNat / 2 ^ 32) ∧
    (schedule (finalBlock p bits)).getD 15 0 = BitVec.ofNat 32 bits.toNat

/-! ### Streams -/

/-- R140: after SHA_RESET and any byte sequence, the block count, the pending bytes and the chained digest are those of the
concatenated bytes, on any instance with nothing pending (log 21). -/
def Obligations.AppendedStreamIsChained : Prop :=
  ∀ (st : State) (bytes : List Byte), st.pending = [] →
    runHost (writeCmd 0x00001000 :: shaFeed bytes) st = .next { st with eng := { st.eng with
      shaH := chainBlocks (bytes.length / 64) ⟨0x67452301, 0xEFCDAB89, 0x98BADCFE, 0x10325476, 0xC3D2E1F0⟩ bytes
      shaBlk := BitVec.ofNat 64 (bytes.length / 64)
      shaBuf := bytes.drop (64 * (bytes.length / 64)) } }

/-- R186 with R130 to R137: the engine's incremental SHA-1 of any byte sequence is the transform chained over the whole padded
message, whose bit length wraps modulo 2^64 (R135; from 2^61 bytes on it is no standard's digest,
93_implementation_defined.md I1), on any instance in any state with nothing pending (log 21). -/
def Obligations.OneShotSha1IsTheWholeMessageHash : Prop :=
  ∀ (st : State) (bytes : List Byte), st.pending = [] →
    oneShotSha1 bytes st = some (sha1DigestOf (sha1Reference bytes))

/-- R139: a SHA_GET in the middle of a stream does not change what the stream's end leaves, with nothing pending before
(log 21). -/
def Obligations.ShaGetDoesNotDisturbTheStream : Prop :=
  ∀ (st : State) (s t : List Byte), st.pending = [] → ∃ u,
    runHost (shaFeed s ++ [writeCmd 0x00001200] ++ shaFeed t ++ [writeCmd 0x00001200]) st = .next u ∧
    runHost (shaFeed (s ++ t) ++ [writeCmd 0x00001200]) st = .next u

/-- R167 (a): a CRC_GET in the middle of a stream does not change what the stream's end leaves, with nothing pending before
(log 21). -/
def Obligations.CrcGetDoesNotDisturbTheStream : Prop :=
  ∀ (st : State) (s t : List Byte), st.pending = [] → ∃ u,
    runHost (crcFeed s ++ [writeCmd 0x00002200] ++ crcFeed t ++ [writeCmd 0x00002200]) st = .next u ∧
    runHost (crcFeed (s ++ t) ++ [writeCmd 0x00002200]) st = .next u

/-! ### CRC-32 -/

/-- R160: an entry of the table is what eight iterations make of its index; each tests the bit it then shifts out. -/
def Obligations.TableEntryIsEightIterations : Prop :=
  ∀ n : Byte, crcTable n = (List.range 8).foldl
    (fun (c : Word) _ => if c.getLsbD 0 then BitVec.ofNat 32 (c.toNat / 2) ^^^ 0xEDB88320 else BitVec.ofNat 32 (c.toNat / 2))
    (BitVec.ofNat 32 n.toNat)

/-- R161: the printed table is the generated one. -/
def Obligations.PrintedCrcTableIsTheGeneratedOne : Prop :=
  crcRom.length = 256 ∧ ∀ n : Byte, crcRom.getD n.toNat 0 = crcTable n

/-- The table-driven step of R163 is the bit-serial one: eight iterations of R160 with the byte in the low bits. -/
def Obligations.CrcTableStepIsBitSerial : Prop :=
  ∀ (acc : Word) (b : Byte) (s : State), s.eng.crcAcc = acc → ∃ t, exec (.crcAppend b) s = .next t ∧
    t.eng.crcAcc = crcByteSerial acc b

/-- R186 with R162 to R166: the engine's CRC-32 of any byte sequence is the bit-serial CRC of the whole message, on any
instance in any state with nothing pending (log 21). -/
def Obligations.OneShotCrc32IsTheBitSerialCrc : Prop :=
  ∀ (st : State) (bytes : List Byte), st.pending = [] →
    oneShotCrc32 bytes st = some (crc32DigestOf (crc32Reference bytes))

/-! ### The host's side -/

/-- R138, R166: byte `4i + k` of a SHA-1 digest, and byte `k` of a CRC-32 digest. -/
def Obligations.DigestBytesAreBigEndian : Prop :=
  (∀ (v : Words5) (i k : Fin 4), (sha1DigestOf v).bytes.getD (4 * i.val + k.val) 0 =
    (words5Get v i.castSucc).extractLsb' (24 - 8 * k.val) 8) ∧
  (∀ (v : Words5) (k : Fin 4), (sha1DigestOf v).bytes.getD (16 + k.val) 0 = v.w4.extractLsb' (24 - 8 * k.val) 8) ∧
  (∀ (v : Word) (k : Fin 4), (crc32DigestOf v).bytes.getD k.val 0 = v.extractLsb' (24 - 8 * k.val) 8)

/-- R181: a digest of `n` bytes renders as `2n` lower-case hex characters, high nibble first, and the rendering determines
the digest. -/
def Obligations.HexRendersEveryNibble : Prop :=
  (∀ n (d : Digest n), d.hex.length = 2 * n ∧
    (∀ j, j < n → hexDigitValue (d.hex.getD (2 * j) 'x') = some ((d.bytes.getD j 0).toNat / 16) ∧
      hexDigitValue (d.hex.getD (2 * j + 1) 'x') = some ((d.bytes.getD j 0).toNat % 16)) ∧
    ∀ c ∈ d.hex, c ∈ ['0', '1', '2', '3', '4', '5', '6', '7', '8', '9', 'a', 'b', 'c', 'd', 'e', 'f']) ∧
  ∀ n (d d' : Digest n), d.hex = d'.hex → d = d'

/-- R182, R183: comparison with a string ignores the case of A to F, is false (no error) for another length and for a
changed character; comparison of two digests of one width is equality. -/
def Obligations.DigestComparisonIgnoresOnlyHexCase : Prop :=
  (∀ n (d : Digest n) (s : List Char), d.eqHex s = true ↔
    s.length = d.hex.length ∧ ∀ j, j < s.length → lowerHex (s.getD j 'x') = d.hex.getD j 'x') ∧
  (∀ n (d : Digest n), d.eqHex (d.hex.map upperHex) = true) ∧
  (∀ n (d d' : Digest n), d.eqBytes d' = true ↔ d = d')

/-- R77: the expansions of the pseudo-instructions, for ASCII strings. -/
def Obligations.PseudoInstructionsExpandAsListed : Prop :=
  (∀ s : List Char, (∀ c ∈ s, c.toNat < 128) →
    let bytes : List Byte := s.map fun c => BitVec.ofNat 8 c.toNat
    let shaWords := bytes.map fun b => HostAccess.write 0x00 32 (0x00001100 ||| b.setWidth 32)
    let crcWords := bytes.map fun b => HostAccess.write 0x00 32 (0x00002100 ||| b.setWidth 32)
    assemble (.shaFeed s) = some shaWords ∧ assemble (.crcFeed s) = some crcWords ∧
    assemble (.shaHash s) = some ([.write 0x00 32 0x00001000] ++ shaWords ++ [.write 0x00 32 0x00001200]) ∧
    assemble (.crcHash s) = some ([.write 0x00 32 0x00002000] ++ crcWords ++ [.write 0x00 32 0x00002200])) ∧
  assemble .shaRead = some [.read 0x10 32, .read 0x14 32, .read 0x18 32, .read 0x1C 32, .read 0x20 32] ∧
  assemble .crcRead = some [.read 0x24 32]

/-- R76: every access of an assembled line but `rd` and `wr` is admitted; `rd` and `wr` assemble to the 32-bit read and write
of their register, and R52 admits the read for every register but CMD and the write for CMD alone. A byte operand that is no
number 0 to 255 and no ASCII character is an assembly error. The model's choice: a value of `wr` or `.word` that does not fit
in 32 bits, or a string with a character that is not ASCII, is an assembly error too (log 12). -/
def Obligations.AssembledCommandsAreAdmitted : Prop :=
  (∀ l as, assemble l = some as → (∀ r, l ≠ .rd r) → (∀ r v, l ≠ .wr r v) → ∀ a ∈ as, Admitted a) ∧
  (∀ r, assemble (.rd r) = some [.read (regOffset r) 32] ∧ (Admitted (.read (regOffset r) 32) ↔ r ≠ .cmd)) ∧
  (∀ r v, v < 2 ^ 32 → assemble (.wr r v) = some [.write (regOffset r) 32 (BitVec.ofNat 32 v)] ∧
    (Admitted (.write (regOffset r) 32 (BitVec.ofNat 32 v)) ↔ r = .cmd)) ∧
  (∀ b : AsmByte,
    let fits := match b with
      | .dec n => n ≤ 255
      | .hex n => n ≤ 255
      | .chr c => c.toNat < 128
    (b.wellFormed = true ↔ fits) ∧
    (¬ fits → assemble (.shaAppend b) = none ∧ assemble (.crcAppend b) = none)) ∧
  (∀ r v, 2 ^ 32 ≤ v → assemble (.wr r v) = none ∧ assemble (.word v) = none) ∧
  ∀ s : List Char, (∃ c ∈ s, 128 ≤ c.toNat) → assemble (.shaFeed s) = none ∧ assemble (.crcFeed s) = none ∧
    assemble (.shaHash s) = none ∧ assemble (.crcHash s) = none

/-! ### The platform -/

/-- R214: an access leaves every instance alone whose window its first byte does not lie in (log 23). The form of a platform (its instances as a
list, agents and reset domains as numbers, one ordered list of events) is the model's (log 5, log 7, log 18). -/
def Obligations.AccessChangesNoOtherInstance : Prop :=
  ∀ (cfg : PlatformConfig) (p p' : Platform) (agent : Nat) (a : HostAccess) (rest : List PlatformEvent) (j : Nat)
    (c : InstanceConfig), p.pending = .access agent a :: rest → Platform.step cfg p = .next p' →
    cfg.instances[j]? = some c → ¬ (c.base ≤ accessAddr a ∧ accessAddr a < c.base + 256) →
    p'.engines[j]? = p.engines[j]?

/-- R50, R214, R237: on a legal platform, an access by an instance's own agent inside its window does to that instance what
the one-instance machine does at that offset, wherever ENGINE_BASE lies. The model's choice: agents are numbers and an access
by another agent is refused under a name (log 5), and a fault ends the run of the whole platform (log 4). -/
def Obligations.InstanceRunsAsTheOneInstanceMachine : Prop :=
  ∀ (cfg : PlatformConfig) (p : Platform) (agent : Nat) (a : HostAccess) (rest : List PlatformEvent) (k : Nat)
    (c : InstanceConfig) (e : Engine), cfg.wellFormed = true → p.pending = .access agent a :: rest →
    cfg.instances[k]? = some c → p.engines[k]? = some e → c.base ≤ accessAddr a → accessAddr a < c.base + 256 →
    (agent = c.agent → ∀ t, performAccess (accessFrom c.base a) (portOf e) = .next t →
      Platform.step cfg p = .next {
        engines := p.engines.set k t.eng
        pending := rest
        received := p.received ++ t.received.map fun v => (agent, v) }) ∧
    (agent = c.agent → ∀ f, performAccess (accessFrom c.base a) (portOf e) = .fault f →
      Platform.step cfg p = .fault f) ∧
    (agent ≠ c.agent → Platform.step cfg p = .refused (.secondHostAgent agent))

/-- R230, R231: a reset signal resets every instance of its domain and no other. That a domain is a number is the model's
choice (log 18). -/
def Obligations.ResetSignalReachesExactlyItsDomain : Prop :=
  ∀ (cfg : PlatformConfig) (p : Platform) (d : Nat) (rest : List PlatformEvent), p.pending = .reset d :: rest →
    p.engines.length = cfg.instances.length →
    ∃ p', Platform.step cfg p = .next p' ∧ p'.pending = rest ∧ p'.engines.length = p.engines.length ∧
      ∀ (k : Nat) (c : InstanceConfig) (e : Engine), cfg.instances[k]? = some c → p.engines[k]? = some e →
        p'.engines[k]? = some (if c.domain = d then Engine.reset else e)
end

