-- ==== Sys2Proof/Laws/State.lean ====
section
/-! SUPPORT. One lemma per field per update of the state, so that no later proof unfolds a record update. -/

namespace Sys2Proof.Machine

/-! ### Updates of the engine -/

@[simp] theorem setShaValid_shaH (e : Engine) : e.setShaValid.shaH = e.shaH := rfl
@[simp] theorem setShaValid_shaBuf (e : Engine) : e.setShaValid.shaBuf = e.shaBuf := rfl
@[simp] theorem setShaValid_shaBlk (e : Engine) : e.setShaValid.shaBlk = e.shaBlk := rfl
@[simp] theorem setShaValid_crcAcc (e : Engine) : e.setShaValid.crcAcc = e.crcAcc := rfl
@[simp] theorem setShaValid_resDig (e : Engine) : e.setShaValid.resDig = e.resDig := rfl
@[simp] theorem setShaValid_resCrc (e : Engine) : e.setShaValid.resCrc = e.resCrc := rfl
@[simp] theorem setShaValid_err (e : Engine) : e.setShaValid.err = e.err := rfl
@[simp] theorem setShaValid_errCode (e : Engine) : e.setShaValid.errCode = e.errCode := rfl
@[simp] theorem setShaValid_shaValid (e : Engine) : e.setShaValid.shaValid = true := rfl
@[simp] theorem setShaValid_crcValid (e : Engine) : e.setShaValid.crcValid = e.crcValid := rfl
@[simp] theorem setShaValid_errCmd (e : Engine) : e.setShaValid.errCmd = e.errCmd := rfl

@[simp] theorem setCrcValid_shaH (e : Engine) : e.setCrcValid.shaH = e.shaH := rfl
@[simp] theorem setCrcValid_shaBuf (e : Engine) : e.setCrcValid.shaBuf = e.shaBuf := rfl
@[simp] theorem setCrcValid_shaBlk (e : Engine) : e.setCrcValid.shaBlk = e.shaBlk := rfl
@[simp] theorem setCrcValid_crcAcc (e : Engine) : e.setCrcValid.crcAcc = e.crcAcc := rfl
@[simp] theorem setCrcValid_resDig (e : Engine) : e.setCrcValid.resDig = e.resDig := rfl
@[simp] theorem setCrcValid_resCrc (e : Engine) : e.setCrcValid.resCrc = e.resCrc := rfl
@[simp] theorem setCrcValid_err (e : Engine) : e.setCrcValid.err = e.err := rfl
@[simp] theorem setCrcValid_errCode (e : Engine) : e.setCrcValid.errCode = e.errCode := rfl
@[simp] theorem setCrcValid_shaValid (e : Engine) : e.setCrcValid.shaValid = e.shaValid := rfl
@[simp] theorem setCrcValid_crcValid (e : Engine) : e.setCrcValid.crcValid = true := rfl
@[simp] theorem setCrcValid_errCmd (e : Engine) : e.setCrcValid.errCmd = e.errCmd := rfl

@[simp] theorem clearError_shaH (e : Engine) : e.clearError.shaH = e.shaH := rfl
@[simp] theorem clearError_shaBuf (e : Engine) : e.clearError.shaBuf = e.shaBuf := rfl
@[simp] theorem clearError_shaBlk (e : Engine) : e.clearError.shaBlk = e.shaBlk := rfl
@[simp] theorem clearError_crcAcc (e : Engine) : e.clearError.crcAcc = e.crcAcc := rfl
@[simp] theorem clearError_resDig (e : Engine) : e.clearError.resDig = e.resDig := rfl
@[simp] theorem clearError_resCrc (e : Engine) : e.clearError.resCrc = e.resCrc := rfl
@[simp] theorem clearError_err (e : Engine) : e.clearError.err = false := rfl
@[simp] theorem clearError_errCode (e : Engine) : e.clearError.errCode = 0 := rfl
@[simp] theorem clearError_shaValid (e : Engine) : e.clearError.shaValid = e.shaValid := rfl
@[simp] theorem clearError_crcValid (e : Engine) : e.clearError.crcValid = e.crcValid := rfl
@[simp] theorem clearError_errCmd (e : Engine) : e.clearError.errCmd = 0 := rfl

@[simp] theorem resetSha_shaH (e : Engine) : e.resetSha.shaH = sha1Iv := rfl
@[simp] theorem resetSha_shaBuf (e : Engine) : e.resetSha.shaBuf = [] := rfl
@[simp] theorem resetSha_shaBlk (e : Engine) : e.resetSha.shaBlk = 0 := rfl
@[simp] theorem resetSha_crcAcc (e : Engine) : e.resetSha.crcAcc = e.crcAcc := rfl
@[simp] theorem resetSha_resDig (e : Engine) : e.resetSha.resDig = e.resDig := rfl
@[simp] theorem resetSha_resCrc (e : Engine) : e.resetSha.resCrc = e.resCrc := rfl
@[simp] theorem resetSha_err (e : Engine) : e.resetSha.err = e.err := rfl
@[simp] theorem resetSha_errCode (e : Engine) : e.resetSha.errCode = e.errCode := rfl
@[simp] theorem resetSha_shaValid (e : Engine) : e.resetSha.shaValid = e.shaValid := rfl
@[simp] theorem resetSha_crcValid (e : Engine) : e.resetSha.crcValid = e.crcValid := rfl
@[simp] theorem resetSha_errCmd (e : Engine) : e.resetSha.errCmd = e.errCmd := rfl

@[simp] theorem setShaBuf_shaH (e : Engine) (b : List Byte) : (e.setShaBuf b).shaH = e.shaH := rfl
@[simp] theorem setShaBuf_shaBuf (e : Engine) (b : List Byte) : (e.setShaBuf b).shaBuf = b := rfl
@[simp] theorem setShaBuf_shaBlk (e : Engine) (b : List Byte) : (e.setShaBuf b).shaBlk = e.shaBlk := rfl
@[simp] theorem setShaBuf_crcAcc (e : Engine) (b : List Byte) : (e.setShaBuf b).crcAcc = e.crcAcc := rfl
@[simp] theorem setShaBuf_resDig (e : Engine) (b : List Byte) : (e.setShaBuf b).resDig = e.resDig := rfl
@[simp] theorem setShaBuf_resCrc (e : Engine) (b : List Byte) : (e.setShaBuf b).resCrc = e.resCrc := rfl
@[simp] theorem setShaBuf_err (e : Engine) (b : List Byte) : (e.setShaBuf b).err = e.err := rfl
@[simp] theorem setShaBuf_errCode (e : Engine) (b : List Byte) : (e.setShaBuf b).errCode = e.errCode := rfl
@[simp] theorem setShaBuf_shaValid (e : Engine) (b : List Byte) : (e.setShaBuf b).shaValid = e.shaValid := rfl
@[simp] theorem setShaBuf_crcValid (e : Engine) (b : List Byte) : (e.setShaBuf b).crcValid = e.crcValid := rfl
@[simp] theorem setShaBuf_errCmd (e : Engine) (b : List Byte) : (e.setShaBuf b).errCmd = e.errCmd := rfl

@[simp] theorem takeBlock_shaH (e : Engine) (h : Words5) : (e.takeBlock h).shaH = h := rfl
@[simp] theorem takeBlock_shaBuf (e : Engine) (h : Words5) : (e.takeBlock h).shaBuf = [] := rfl
@[simp] theorem takeBlock_shaBlk (e : Engine) (h : Words5) : (e.takeBlock h).shaBlk = e.shaBlk + 1 := rfl
@[simp] theorem takeBlock_crcAcc (e : Engine) (h : Words5) : (e.takeBlock h).crcAcc = e.crcAcc := rfl
@[simp] theorem takeBlock_resDig (e : Engine) (h : Words5) : (e.takeBlock h).resDig = e.resDig := rfl
@[simp] theorem takeBlock_resCrc (e : Engine) (h : Words5) : (e.takeBlock h).resCrc = e.resCrc := rfl
@[simp] theorem takeBlock_err (e : Engine) (h : Words5) : (e.takeBlock h).err = e.err := rfl
@[simp] theorem takeBlock_errCode (e : Engine) (h : Words5) : (e.takeBlock h).errCode = e.errCode := rfl
@[simp] theorem takeBlock_shaValid (e : Engine) (h : Words5) : (e.takeBlock h).shaValid = e.shaValid := rfl
@[simp] theorem takeBlock_crcValid (e : Engine) (h : Words5) : (e.takeBlock h).crcValid = e.crcValid := rfl
@[simp] theorem takeBlock_errCmd (e : Engine) (h : Words5) : (e.takeBlock h).errCmd = e.errCmd := rfl

@[simp] theorem setResDig_shaH (e : Engine) (d : Words5) : (e.setResDig d).shaH = e.shaH := rfl
@[simp] theorem setResDig_shaBuf (e : Engine) (d : Words5) : (e.setResDig d).shaBuf = e.shaBuf := rfl
@[simp] theorem setResDig_shaBlk (e : Engine) (d : Words5) : (e.setResDig d).shaBlk = e.shaBlk := rfl
@[simp] theorem setResDig_crcAcc (e : Engine) (d : Words5) : (e.setResDig d).crcAcc = e.crcAcc := rfl
@[simp] theorem setResDig_resDig (e : Engine) (d : Words5) : (e.setResDig d).resDig = d := rfl
@[simp] theorem setResDig_resCrc (e : Engine) (d : Words5) : (e.setResDig d).resCrc = e.resCrc := rfl
@[simp] theorem setResDig_err (e : Engine) (d : Words5) : (e.setResDig d).err = e.err := rfl
@[simp] theorem setResDig_errCode (e : Engine) (d : Words5) : (e.setResDig d).errCode = e.errCode := rfl
@[simp] theorem setResDig_shaValid (e : Engine) (d : Words5) : (e.setResDig d).shaValid = e.shaValid := rfl
@[simp] theorem setResDig_crcValid (e : Engine) (d : Words5) : (e.setResDig d).crcValid = e.crcValid := rfl
@[simp] theorem setResDig_errCmd (e : Engine) (d : Words5) : (e.setResDig d).errCmd = e.errCmd := rfl

@[simp] theorem setCrcAcc_shaH (e : Engine) (v : Word) : (e.setCrcAcc v).shaH = e.shaH := rfl
@[simp] theorem setCrcAcc_shaBuf (e : Engine) (v : Word) : (e.setCrcAcc v).shaBuf = e.shaBuf := rfl
@[simp] theorem setCrcAcc_shaBlk (e : Engine) (v : Word) : (e.setCrcAcc v).shaBlk = e.shaBlk := rfl
@[simp] theorem setCrcAcc_crcAcc (e : Engine) (v : Word) : (e.setCrcAcc v).crcAcc = v := rfl
@[simp] theorem setCrcAcc_resDig (e : Engine) (v : Word) : (e.setCrcAcc v).resDig = e.resDig := rfl
@[simp] theorem setCrcAcc_resCrc (e : Engine) (v : Word) : (e.setCrcAcc v).resCrc = e.resCrc := rfl
@[simp] theorem setCrcAcc_err (e : Engine) (v : Word) : (e.setCrcAcc v).err = e.err := rfl
@[simp] theorem setCrcAcc_errCode (e : Engine) (v : Word) : (e.setCrcAcc v).errCode = e.errCode := rfl
@[simp] theorem setCrcAcc_shaValid (e : Engine) (v : Word) : (e.setCrcAcc v).shaValid = e.shaValid := rfl
@[simp] theorem setCrcAcc_crcValid (e : Engine) (v : Word) : (e.setCrcAcc v).crcValid = e.crcValid := rfl
@[simp] theorem setCrcAcc_errCmd (e : Engine) (v : Word) : (e.setCrcAcc v).errCmd = e.errCmd := rfl

@[simp] theorem setResCrc_shaH (e : Engine) (v : Word) : (e.setResCrc v).shaH = e.shaH := rfl
@[simp] theorem setResCrc_shaBuf (e : Engine) (v : Word) : (e.setResCrc v).shaBuf = e.shaBuf := rfl
@[simp] theorem setResCrc_shaBlk (e : Engine) (v : Word) : (e.setResCrc v).shaBlk = e.shaBlk := rfl
@[simp] theorem setResCrc_crcAcc (e : Engine) (v : Word) : (e.setResCrc v).crcAcc = e.crcAcc := rfl
@[simp] theorem setResCrc_resDig (e : Engine) (v : Word) : (e.setResCrc v).resDig = e.resDig := rfl
@[simp] theorem setResCrc_resCrc (e : Engine) (v : Word) : (e.setResCrc v).resCrc = v := rfl
@[simp] theorem setResCrc_err (e : Engine) (v : Word) : (e.setResCrc v).err = e.err := rfl
@[simp] theorem setResCrc_errCode (e : Engine) (v : Word) : (e.setResCrc v).errCode = e.errCode := rfl
@[simp] theorem setResCrc_shaValid (e : Engine) (v : Word) : (e.setResCrc v).shaValid = e.shaValid := rfl
@[simp] theorem setResCrc_crcValid (e : Engine) (v : Word) : (e.setResCrc v).crcValid = e.crcValid := rfl
@[simp] theorem setResCrc_errCmd (e : Engine) (v : Word) : (e.setResCrc v).errCmd = e.errCmd := rfl

@[simp] theorem hardwareReset_eq (e : Engine) : e.hardwareReset = Engine.reset := rfl

@[simp] theorem engine_reset_shaH : Engine.reset.shaH = sha1Iv := rfl
@[simp] theorem engine_reset_shaBuf : Engine.reset.shaBuf = [] := rfl
@[simp] theorem engine_reset_shaBlk : Engine.reset.shaBlk = 0 := rfl
@[simp] theorem engine_reset_crcAcc : Engine.reset.crcAcc = crcInit := rfl
@[simp] theorem engine_reset_resDig : Engine.reset.resDig = ⟨0, 0, 0, 0, 0⟩ := rfl
@[simp] theorem engine_reset_resCrc : Engine.reset.resCrc = 0 := rfl
@[simp] theorem engine_reset_err : Engine.reset.err = false := rfl
@[simp] theorem engine_reset_errCode : Engine.reset.errCode = 0 := rfl
@[simp] theorem engine_reset_shaValid : Engine.reset.shaValid = false := rfl
@[simp] theorem engine_reset_crcValid : Engine.reset.crcValid = false := rfl
@[simp] theorem engine_reset_errCmd : Engine.reset.errCmd = 0 := rfl

/-! ### Recording an error: the first is kept -/

theorem recordError_of_err {e : Engine} (h : e.err = true) (c : IllegalCode) (w : Word) : e.recordError c w = e := by
  simp [Engine.recordError, h]

theorem recordError_of_clear {e : Engine} (h : e.err = false) (c : IllegalCode) (w : Word) :
    e.recordError c w = { e with err := true, errCode := errCodeOf c, errCmd := w } := by
  simp [Engine.recordError, h]

@[simp] theorem recordError_err (e : Engine) (c : IllegalCode) (w : Word) : (e.recordError c w).err = true := by
  unfold Engine.recordError; split <;> simp_all

@[simp] theorem recordError_shaH (e : Engine) (c : IllegalCode) (w : Word) : (e.recordError c w).shaH = e.shaH := by
  unfold Engine.recordError; split <;> rfl

@[simp] theorem recordError_shaBuf (e : Engine) (c : IllegalCode) (w : Word) : (e.recordError c w).shaBuf = e.shaBuf := by
  unfold Engine.recordError; split <;> rfl

@[simp] theorem recordError_shaBlk (e : Engine) (c : IllegalCode) (w : Word) : (e.recordError c w).shaBlk = e.shaBlk := by
  unfold Engine.recordError; split <;> rfl

@[simp] theorem recordError_crcAcc (e : Engine) (c : IllegalCode) (w : Word) : (e.recordError c w).crcAcc = e.crcAcc := by
  unfold Engine.recordError; split <;> rfl

@[simp] theorem recordError_resDig (e : Engine) (c : IllegalCode) (w : Word) : (e.recordError c w).resDig = e.resDig := by
  unfold Engine.recordError; split <;> rfl

@[simp] theorem recordError_resCrc (e : Engine) (c : IllegalCode) (w : Word) : (e.recordError c w).resCrc = e.resCrc := by
  unfold Engine.recordError; split <;> rfl

@[simp] theorem recordError_shaValid (e : Engine) (c : IllegalCode) (w : Word) : (e.recordError c w).shaValid = e.shaValid := by
  unfold Engine.recordError; split <;> rfl

@[simp] theorem recordError_crcValid (e : Engine) (c : IllegalCode) (w : Word) : (e.recordError c w).crcValid = e.crcValid := by
  unfold Engine.recordError; split <;> rfl

/-! ### Updates of the state -/

@[simp] theorem onEngine_eng (f : Engine → Engine) (s : State) : (s.onEngine f).eng = f s.eng := rfl
@[simp] theorem onEngine_pending (f : Engine → Engine) (s : State) : (s.onEngine f).pending = s.pending := rfl
@[simp] theorem onEngine_received (f : Engine → Engine) (s : State) : (s.onEngine f).received = s.received := rfl

@[simp] theorem dropEvent_eng (s : State) : s.dropEvent.eng = s.eng := rfl
@[simp] theorem dropEvent_pending (s : State) : s.dropEvent.pending = s.pending.tail := rfl
@[simp] theorem dropEvent_received (s : State) : s.dropEvent.received = s.received := rfl

@[simp] theorem deliver_eng (v : Word) (s : State) : (s.deliver v).eng = s.eng := rfl
@[simp] theorem deliver_pending (v : Word) (s : State) : (s.deliver v).pending = s.pending := rfl
@[simp] theorem deliver_received (v : Word) (s : State) : (s.deliver v).received = s.received ++ [v] := rfl

@[simp] theorem enqueue_eng (as : List HostAccess) (s : State) : (s.enqueue as).eng = s.eng := rfl
@[simp] theorem enqueue_pending (as : List HostAccess) (s : State) :
    (s.enqueue as).pending = s.pending ++ as.map HostEvent.access := rfl
@[simp] theorem enqueue_received (as : List HostAccess) (s : State) : (s.enqueue as).received = s.received := rfl

@[simp] theorem withFetchWord_eng (s : State) (n w : Nat) : (s.withFetchWord n w).eng = s.eng := rfl
@[simp] theorem withFetchWord_pending (s : State) (n w : Nat) :
    (s.withFetchWord n w).pending = .access (.write 0x00 32 (BitVec.ofNat 32 (w % 2 ^ n))) :: s.pending := rfl
@[simp] theorem withFetchWord_received (s : State) (n w : Nat) : (s.withFetchWord n w).received = s.received := rfl

end Sys2Proof.Machine
end

