-- ==== Sys2Proof/Laws/Access.lean ====
section
/-! SUPPORT. What the window admits, what an access does, and the inversion of a step: everything it can do, said once. -/

namespace Sys2Proof.Machine

/-! ### The register map -/

/-- Every register stands at its offset and at no other's. -/
theorem regAt_regOffset (r : Reg) : regAt (regOffset r) = some r := by
  cases r with
  | shaDigest i => revert i; decide
  | shaH i => revert i; decide
  | _ => rfl

theorem regOffset_injective {r r' : Reg} (h : regOffset r = regOffset r') : r = r' := by
  have := regAt_regOffset r
  rw [h, regAt_regOffset] at this
  exact (Option.some.inj this).symm

theorem regAt_eq_some {off : Nat} {r : Reg} : regAt off = some r ↔ regOffset r = off := by
  constructor
  · intro h
    simpa using List.find?_some h
  · rintro rfl
    exact regAt_regOffset r

theorem regOffset_aligned (r : Reg) : regOffset r % 4 = 0 := by
  cases r <;> simp [regOffset]

theorem regOffset_inWindow (r : Reg) : regOffset r < windowBytes := by
  cases r <;> simp [regOffset, windowBytes]
  all_goals omega

/-- CMD is the only register without a value (10_state.md R31). -/
theorem regValue_eq_none {e : Engine} {r : Reg} : regValue e r = none ↔ r = .cmd := by
  cases r <;> simp [regValue]

/-! ### Admission -/

theorem admit_read_reg (r : Reg) (h : r ≠ .cmd) : admission (.read (regOffset r) 32) = .readReg r := by
  simp [admission, regOffset_aligned, regAt_regOffset, h]

@[simp] theorem admit_writeCmd (w : Word) : admission (.write 0x00 32 w) = .issue w := by
  have : regAt 0 = some .cmd := rfl
  simp [admission, this]

/-- An admitted read names a register other than CMD, at its offset, 32 bits wide. -/
theorem admit_eq_readReg {a : HostAccess} {r : Reg} : admission a = .readReg r ↔ a = .read (regOffset r) 32 ∧ r ≠ .cmd := by
  constructor
  · cases a with
    | read off width =>
      simp only [admission]
      split
      · rename_i hw
        split
        · simp
        · rename_i r' hr
          obtain rfl := regAt_eq_some.1 hr
          split
          · simp
          · intro h
            cases h
            exact ⟨by rw [hw.1], by assumption⟩
      · simp
    | write off width data =>
      simp only [admission]
      split
      · split
        · simp
        · split <;> simp
      · simp
  · rintro ⟨rfl, h⟩
    exact admit_read_reg r h

/-- An admitted write is the write of a word to CMD. -/
theorem admit_eq_issue {a : HostAccess} {w : Word} : admission a = .issue w ↔ a = .write 0x00 32 w := by
  constructor
  · cases a with
    | read off width =>
      simp only [admission]
      split
      · split
        · simp
        · split <;> simp
      · simp
    | write off width data =>
      simp only [admission]
      split
      · rename_i hw
        split
        · simp
        · rename_i r' hr
          obtain rfl := regAt_eq_some.1 hr
          split
          · rename_i hc
            subst hc
            obtain ⟨rfl, -⟩ := hw
            intro h
            cases h
            simp [regOffset]
          · simp
      · simp
  · rintro rfl
    simp

/-- The BusError names the offset of the access. -/
theorem admit_eq_busError {a : HostAccess} {off : Nat} (h : admission a = .busError off) :
    (∃ width, a = .read off width) ∨ ∃ width data, a = .write off width data := by
  cases a with
  | read o width =>
    simp only [admission] at h
    refine .inl ⟨width, ?_⟩
    split at h
    · split at h
      · cases h; rfl
      · split at h <;> cases h; rfl
    · cases h; rfl
  | write o width data =>
    simp only [admission] at h
    refine .inr ⟨width, data, ?_⟩
    split at h
    · split at h
      · cases h; rfl
      · split at h <;> cases h; rfl
    · cases h; rfl

/-! ### Accesses -/

theorem performAccess_busError {a : HostAccess} {off : Nat} (h : admission a = .busError off) (s : State) :
    performAccess a s = .fault (.busError off) := by
  simp [performAccess, completionOf, h]

theorem performAccess_issue {a : HostAccess} {w : Word} (h : admission a = .issue w) (s : State) :
    performAccess a s = issueCommand w s := by
  simp [performAccess, completionOf, effectOf, h]

theorem performAccess_readReg {a : HostAccess} {r : Reg} {v : Word} (h : admission a = .readReg r) {s : State}
    (hv : regValue s.eng r = some v) : performAccess a s = .next (s.deliver v) := by
  simp [performAccess, completionOf, effectOf, h, hv]

theorem issueCommand_command {w : Word} {i : Instr} (h : decode w = .command i) (s : State) :
    issueCommand w s = exec i s := by
  simp [issueCommand, h]

theorem issueCommand_illegal {w : Word} {c : IllegalCode} (h : decode w = .illegal c) (s : State) :
    issueCommand w s = .next (s.onEngine (Engine.recordError c w)) := by
  simp [issueCommand, h]

/-! ### Commands -/

/-- The effect of each command on the engine. -/
def instrEffect : Instr → Engine → Engine
  | .nop => id
  | .clrErr => Engine.clearError
  | .shaReset => Engine.resetSha
  | .shaAppend b => Engine.appendSha b
  | .shaGet => Engine.getSha
  | .crcReset => Engine.setCrcAcc crcInit
  | .crcAppend b => Engine.appendCrc (b.setWidth 32)
  | .crcGet => Engine.getCrc

/-- A command is an update of the engine and of nothing else. -/
theorem exec_eq_onEngine (i : Instr) (s : State) : exec i s = .next (s.onEngine (instrEffect i)) := by
  cases i <;> rfl

/-- The effect of a command word: its command's, or the record of the error. -/
def wordEffect (w : Word) : Engine → Engine :=
  match decode w with
  | .command i => instrEffect i
  | .illegal c => Engine.recordError c w

theorem issueCommand_eq_onEngine (w : Word) (s : State) : issueCommand w s = .next (s.onEngine (wordEffect w)) := by
  unfold issueCommand wordEffect
  cases decode w <;> simp [exec_eq_onEngine]

/-! ### Steps -/

theorem step_idle {s : State} (h : s.pending = []) : step s = .next s := by
  simp [step, performNext, h]

theorem step_access {s : State} {a : HostAccess} {rest : List HostEvent} (h : s.pending = .access a :: rest) :
    step s = performAccess a { s with pending := rest } := by
  simp [step, performNext, h, performEvent, State.dropEvent]

theorem step_reset {s : State} {rest : List HostEvent} (h : s.pending = .reset :: rest) :
    step s = .next { s with eng := Engine.reset, pending := rest } := by
  simp [step, performNext, h, performEvent, State.dropEvent, State.onEngine, Engine.hardwareReset]

theorem step_writeCmd {s : State} {w : Word} {rest : List HostEvent} (h : s.pending = .access (.write 0x00 32 w) :: rest) :
    step s = .next { s with eng := wordEffect w s.eng, pending := rest } := by
  rw [step_access h, performAccess_issue (admit_writeCmd w), issueCommand_eq_onEngine]
  rfl

theorem step_readReg {s : State} {r : Reg} {v : Word} {rest : List HostEvent}
    (h : s.pending = .access (.read (regOffset r) 32) :: rest) (hr : r ≠ .cmd) (hv : regValue s.eng r = some v) :
    step s = .next { s with pending := rest, received := s.received ++ [v] } := by
  rw [step_access h, performAccess_readReg (admit_read_reg r hr) (by exact hv)]
  rfl

/-- Everything a step that goes on can have done. -/
theorem step_next_cases {s t : State} (h : step s = .next t) :
    (s.pending = [] ∧ t = s) ∨
    (∃ rest, s.pending = .reset :: rest ∧ t = { s with eng := Engine.reset, pending := rest }) ∨
    (∃ w rest, s.pending = .access (.write 0x00 32 w) :: rest ∧
      t = { s with eng := wordEffect w s.eng, pending := rest }) ∨
    (∃ r v rest, s.pending = .access (.read (regOffset r) 32) :: rest ∧ r ≠ .cmd ∧ regValue s.eng r = some v ∧
      t = { s with pending := rest, received := s.received ++ [v] }) := by
  match hp : s.pending with
  | [] => exact .inl ⟨rfl, by simpa [step_idle hp] using h.symm⟩
  | .reset :: rest => exact .inr (.inl ⟨rest, rfl, by simpa [step_reset hp] using h.symm⟩)
  | .access a :: rest =>
    match ha : admission a with
    | .busError off => simp [step_access hp, performAccess_busError ha] at h
    | .issue w =>
      obtain rfl := admit_eq_issue.1 ha
      exact .inr (.inr (.inl ⟨w, rest, rfl, by simpa [step_writeCmd hp] using h.symm⟩))
    | .readReg r =>
      obtain ⟨rfl, hr⟩ := admit_eq_readReg.1 ha
      match hv : regValue s.eng r with
      | none => exact absurd (regValue_eq_none.1 hv) hr
      | some v => exact .inr (.inr (.inr ⟨r, v, rest, rfl, hr, hv, by simpa [step_readReg hp hr hv] using h.symm⟩))

/-- A step never refuses. -/
theorem step_ne_refused (s : State) (r : Refusal) : step s ≠ .refused r := by
  match hp : s.pending with
  | [] => simp [step_idle hp]
  | .reset :: rest => simp [step_reset hp]
  | .access a :: rest =>
    match ha : admission a with
    | .busError off => simp [step_access hp, performAccess_busError ha]
    | .issue w =>
      obtain rfl := admit_eq_issue.1 ha
      simp [step_writeCmd hp]
    | .readReg r' =>
      obtain ⟨rfl, hr⟩ := admit_eq_readReg.1 ha
      match hv : regValue s.eng r' with
      | none => exact absurd (regValue_eq_none.1 hv) hr
      | some v => simp [step_readReg hp hr hv]

end Sys2Proof.Machine
end

