-- ==== Sys2Proof/Laws/Crc32.lean ====
section
/-! SUPPORT. The CRC table iteration. -/

namespace Sys2Proof.Machine

theorem crcBits_succ (n : Nat) (c : Word) : crcBits (n + 1) c = crcBits n (crcBit c) := rfl

theorem crcBits_add (m n : Nat) (c : Word) : crcBits (m + n) c = crcBits n (crcBits m c) := by
  induction m generalizing c with
  | zero => simp [crcBits]
  | succ m ih => simp [Nat.succ_add, crcBits, ih]

/-- Iterating on zero stays at zero: the table has no constant term. -/
@[simp] theorem crcBits_zero_word (n : Nat) : crcBits n 0 = 0 := by
  induction n with
  | zero => rfl
  | succ n ih => simpa [crcBits, crcBit] using ih

/-- Finalising twice gives the accumulator back (43_crc32.md R165). -/
@[simp] theorem crc32Finalize_finalize (acc : Word) : crc32Finalize (crc32Finalize acc) = acc := by
  simp [crc32Finalize]

end Sys2Proof.Machine
end

