-- ==== Sys2Proof/Laws/Decode.lean ====
section
/-! SUPPORT. Small facts about the fields of a word and about the encoder's words. -/

namespace Sys2Proof

/-- Each bit of a word belongs to exactly one field, so the fields determine the word. -/
theorem fieldsOf_injective {w w' : Word} (h : fieldsOf w = fieldsOf w') : w = w' := by
  simp only [fieldsOf, CommandFields.mk.injEq] at h
  obtain ⟨h1, h2, h3⟩ := h
  apply BitVec.eq_of_getLsbD_eq
  intro i hi
  by_cases h8 : i < 8
  · simpa [h8] using congrArg (fun v => v.getLsbD i) h3
  · by_cases h16 : i < 16
    · have := congrArg (fun v => v.getLsbD (i - 8)) h2
      simpa [show i - 8 < 8 by omega, show 8 + (i - 8) = i by omega] using this
    · have := congrArg (fun v => v.getLsbD (i - 16)) h1
      simpa [show i - 16 < 16 by omega, show 16 + (i - 16) = i by omega] using this

theorem fieldsOf_append (m : Word) (b : Byte) (hm : m.extractLsb' 0 8 = 0) :
    fieldsOf (m ||| b.setWidth 32) = ⟨m.extractLsb' 16 16, m.extractLsb' 8 8, b⟩ := by
  simp only [fieldsOf, CommandFields.mk.injEq]
  refine ⟨?_, ?_, ?_⟩
  · ext i hi
    simp [BitVec.getLsbD_of_ge b (16 + i) (by omega)]
  · ext i hi
    simp
  · ext i hi
    have := congrArg (fun v => v.getLsbD i) hm
    simp only [BitVec.getLsbD_extractLsb', hi, decide_true, Bool.true_and] at this
    simp [show i < 32 by omega, ← BitVec.getLsbD_eq_getElem, hi] at this ⊢
    simp [this]

end Sys2Proof
end

