-- ==== Sys2Proof/Laws/HostSide.lean ====
section
/-! SUPPORT. Running the machine for the host: the first step of a run, runs one after another, and a run of CMD writes. -/

namespace Sys2Proof.Machine

@[simp] theorem runSteps_zero (s : State) : runSteps 0 s = .next s := rfl

theorem runSteps_succ (k : Nat) (s : State) : runSteps (k + 1) s =
    match step s with
    | .next t => runSteps k t
    | .fault f => .fault f
    | .refused r => .refused r := by
  have h : Sys2Proof.core.step s = step s := rfl
  simp only [runSteps, Host.Core.run, h]
  cases step s <;> rfl

theorem runSteps_of_step {s t : State} (h : step s = .next t) (k : Nat) : runSteps (k + 1) s = runSteps k t := by
  rw [runSteps_succ, h]

theorem runSteps_add_of_next {m : Nat} {s t : State} (h : runSteps m s = .next t) (n : Nat) :
    runSteps (m + n) s = runSteps n t := by
  induction m generalizing s with
  | zero =>
    cases h
    rw [Nat.zero_add]
  | succ m ih =>
    rw [runSteps_succ] at h
    rw [Nat.succ_add, runSteps_succ]
    match hs : step s with
    | .next u => exact ih (by simpa [hs] using h)
    | .fault f => simp [hs] at h
    | .refused r => simp [hs] at h

/-- A run of CMD writes performs the effects of their words in order; what is pending after them stays. -/
theorem runSteps_writes (ws : List Word) (rest : List HostEvent) (s : State)
    (h : s.pending = (ws.map writeCmd).map HostEvent.access ++ rest) :
    runSteps ws.length s = .next { s with eng := ws.foldl (fun e w => wordEffect w e) s.eng, pending := rest } := by
  induction ws generalizing s with
  | nil => simp at h; subst h; rfl
  | cons w ws ih =>
    rw [List.length_cons, runSteps_of_step (step_writeCmd (w := w) (by rw [h]; rfl)), ih _ rfl]
    rfl

/-- Issuing CMD writes on an instance with nothing pending. -/
theorem runHost_writes (ws : List Word) {s : State} (h : s.pending = []) :
    runHost (ws.map writeCmd) s = .next { s with eng := ws.foldl (fun e w => wordEffect w e) s.eng } := by
  rw [runHost, List.length_map, runSteps_writes ws [] _ (by simp [h])]
  cases s
  simp_all [State.enqueue]

end Sys2Proof.Machine
end

