-- ==== Sys2Proof/Laws/PerInstr.lean ====
section
/-! SUPPORT. Facts about every instruction as syntax, one lemma per constructor. OpcodeRow: the row of an instruction is a row
of the opcode table, the instruction's word meets that row's mask and match, and its fields are legal (30_encoding.md R72,
R74). -/

namespace Sys2Proof.Laws.OpcodeRow

def Statement (i : Instr) : Prop :=
  i.row ∈ opcodeTable ∧ encode i &&& i.row.mask = i.row.matchWord ∧ (fieldsOf (encode i)).wellFormed = true

theorem nop : Statement .nop := ⟨by simp [opcodeTable], by decide, by decide⟩
theorem clrErr : Statement .clrErr := ⟨by simp [opcodeTable], by decide, by decide⟩
theorem shaReset : Statement .shaReset := ⟨by simp [opcodeTable], by decide, by decide⟩
theorem shaAppend (imm8 : Byte) : Statement (.shaAppend imm8) := by
  refine ⟨by simp [Instr.row, opcodeTable], ?_, ?_⟩
  · revert imm8; decide +kernel
  · exact congrArg CommandFields.wellFormed (fieldsOf_append 0x00001100 imm8 (by decide))
theorem shaGet : Statement .shaGet := ⟨by simp [opcodeTable], by decide, by decide⟩
theorem crcReset : Statement .crcReset := ⟨by simp [opcodeTable], by decide, by decide⟩
theorem crcAppend (imm8 : Byte) : Statement (.crcAppend imm8) := by
  refine ⟨by simp [Instr.row, opcodeTable], ?_, ?_⟩
  · revert imm8; decide +kernel
  · exact congrArg CommandFields.wellFormed (fieldsOf_append 0x00002100 imm8 (by decide))
theorem crcGet : Statement .crcGet := ⟨by simp [opcodeTable], by decide, by decide⟩

end Sys2Proof.Laws.OpcodeRow
end

