-- ==== Sys2Proof/Laws/Platform.lean ====
section
/-! SUPPORT. The platform at power-up, and the one-instance machine as the platform runs it. -/

namespace Sys2Proof.Machine

@[simp] theorem portOf_eng (e : Engine) : (portOf e).eng = e := rfl
@[simp] theorem portOf_pending (e : Engine) : (portOf e).pending = [] := rfl
@[simp] theorem portOf_received (e : Engine) : (portOf e).received = [] := rfl

theorem platform_reset_length (cfg : PlatformConfig) : (Platform.reset cfg).engines.length = cfg.instances.length := by
  simp [Platform.reset]

theorem accessAddr_accessFrom (base : Nat) (a : HostAccess) : accessAddr (accessFrom base a) = accessAddr a - base := by
  cases a <;> rfl

/-- What an access can do at an instance's port. -/
theorem performAccess_next_cases {a : HostAccess} {s t : State} (h : performAccess a s = .next t) :
    (∃ w, a = .write 0x00 32 w ∧ t = s.onEngine (wordEffect w)) ∨
      ∃ r v, a = .read (regOffset r) 32 ∧ r ≠ .cmd ∧ regValue s.eng r = some v ∧ t = s.deliver v := by
  match ha : admission a with
  | .busError off => simp [performAccess_busError ha] at h
  | .issue w =>
    rw [performAccess_issue ha, issueCommand_eq_onEngine] at h
    exact .inl ⟨w, admit_eq_issue.1 ha, by simpa using h.symm⟩
  | .readReg r =>
    obtain ⟨rfl, hr⟩ := admit_eq_readReg.1 ha
    match hv : regValue s.eng r with
    | none => exact absurd (regValue_eq_none.1 hv) hr
    | some v =>
      rw [performAccess_readReg ha hv] at h
      exact .inr ⟨r, v, rfl, hr, hv, by simpa using h.symm⟩

end Sys2Proof.Machine
end

