-- ==== Sys2Proof/Laws/Sha1.lean ====
section
/-! SUPPORT. Sizes in the SHA-1 unit, and what one append and one finalisation can do. -/

namespace Sys2Proof.Machine

@[simp] theorem bytesBe32_length (w : Word) : (bytesBe32 w).length = 4 := rfl

@[simp] theorem zeros_length (n : Nat) : (zeros n).length = n := List.length_replicate ..

@[simp] theorem words5List_length (v : Words5) : (words5List v).length = 5 := rfl

theorem beWords_length (m : List Byte) : (beWords m).length = m.length / 4 := by
  induction m using beWords.induct with
  | case1 b0 b1 b2 b3 rest ih => simp [beWords, ih]; omega
  | case2 m hm =>
    rw [beWords]
    · match m, hm with
      | [], _ => rfl
      | [_], _ => simp
      | [_, _], _ => simp
      | [_, _, _], _ => simp
      | b0 :: b1 :: b2 :: b3 :: rest, hm => exact absurd rfl (hm b0 b1 b2 b3 rest)
    · exact hm

theorem extendSchedule_length (n : Nat) (older : List Word) : (extendSchedule n older).length = n + older.length := by
  induction n generalizing older with
  | zero => simp [extendSchedule]
  | succ n ih => simp [extendSchedule, ih]; omega

/-- The words already there stay below the new ones. -/
theorem extendSchedule_suffix (n : Nat) (older : List Word) : ∃ newer, extendSchedule n older = newer ++ older := by
  induction n generalizing older with
  | zero => exact ⟨[], rfl⟩
  | succ n ih =>
    obtain ⟨newer, h⟩ := ih (nextWord older :: older)
    exact ⟨newer ++ [nextWord older], by simp [extendSchedule, h]⟩

@[simp] theorem lengthField_length (bits : DWord) : (lengthField bits).length = 8 := rfl

/-- A final block is a block: 64 bytes. -/
theorem finalBlock_length (p : List Byte) (bits : DWord) (h : p.length ≤ lengthFieldAt) :
    (finalBlock p bits).length = blockBytes := by
  simp only [finalBlock, List.length_append, zeros_length, lengthField_length, lengthFieldAt, blockBytes] at *
  omega

theorem roundsFrom_append (t : Nat) (ws ws' : List Word) (v : Work) :
    roundsFrom t (ws ++ ws') v = roundsFrom (t + ws.length) ws' (roundsFrom t ws v) := by
  induction ws generalizing t v with
  | nil => simp [roundsFrom]
  | cons w ws ih => simp [roundsFrom, ih, Nat.add_assoc, Nat.add_comm 1]

/-- An append that does not fill the block only lengthens SHA.BUF. -/
theorem appendSha_short {e : Engine} (x : Byte) (h : e.shaBuf.length ≠ 63) :
    e.appendSha x = e.setShaBuf (e.shaBuf ++ [x]) := by
  simp [Engine.appendSha, blockBytes, h]

/-- The append that fills the block runs the block step. -/
theorem appendSha_full {e : Engine} (x : Byte) (h : e.shaBuf.length = 63) :
    e.appendSha x = e.takeBlock (sha1Transform e.shaH (e.shaBuf ++ [x])) := by
  simp [Engine.appendSha, blockBytes, h, Engine.blockStep]

/-- Everything an append leaves alone. -/
theorem appendSha_frame (x : Byte) (e : Engine) :
    (e.appendSha x).crcAcc = e.crcAcc ∧ (e.appendSha x).resDig = e.resDig ∧ (e.appendSha x).resCrc = e.resCrc ∧
      (e.appendSha x).err = e.err ∧ (e.appendSha x).errCode = e.errCode ∧ (e.appendSha x).shaValid = e.shaValid ∧
      (e.appendSha x).crcValid = e.crcValid ∧ (e.appendSha x).errCmd = e.errCmd := by
  unfold Engine.appendSha
  split <;> exact ⟨rfl, rfl, rfl, rfl, rfl, rfl, rfl, rfl⟩

/-- Finalisation depends on the buffer's length only through the choice of one padding block or two. -/
theorem sha1Finalize_cases (h : Words5) (buf : List Byte) (blk : DWord) :
    (buf.length ≤ 55 ∧ sha1Finalize h buf blk = sha1Transform h (finalBlock (buf ++ [0x80]) (bitLength blk buf.length))) ∨
      (55 < buf.length ∧ sha1Finalize h buf blk =
        sha1Transform (sha1Transform h (buf ++ [0x80] ++ zeros (63 - buf.length)))
          (finalBlock [] (bitLength blk buf.length))) := by
  unfold sha1Finalize
  split
  · rename_i hl
    simp only [lengthFieldAt] at hl
    exact .inr ⟨by omega, by simp [blockBytes, show 64 - (buf.length + 1) = 63 - buf.length by omega]⟩
  · rename_i hl
    simp only [lengthFieldAt] at hl
    exact .inl ⟨by omega, rfl⟩

end Sys2Proof.Machine
end

