-- ==== Sys2Proof/Tests/Slice0.lean ====
section
/-! SUPPORT. The model's own tests. Every expected value is copied from spec/ (mostly 95_test_vectors.md) or worked out from
its rules by hand. The `witness_` theorems show, for each statement with hypotheses, a state and operands that meet them. -/

namespace Sys2Proof.Tests

open Sys2Proof.Machine

/-! ### Helpers -/

/-- The digest words of "123" (95_test_vectors.md P1). -/
def digest123 : Words5 := ⟨0x40BD0015, 0x63085FC3, 0x5165329E, 0xA1FF5C5E, 0xCBDBBEEF⟩

/-- An engine in use: 63 pending bytes, the last block count, both results set, an error recorded. -/
def usedEngine : Engine where
  shaH := sha1Iv
  shaBuf := List.replicate 63 0x61
  shaBlk := 0xFFFFFFFFFFFFFFFF
  crcAcc := 0xB0ACBB32
  resDig := digest123
  resCrc := 0x4F5344CD
  err := true
  errCode := 2
  shaValid := true
  crcValid := true
  errCmd := 0x00001300

/-- An engine with given events at its port. -/
def withEvents (e : Engine) (evs : List HostEvent) : State := { eng := e, pending := evs, received := [] }

/-- The oldest event is the write of a word to CMD; a further event waits behind it. -/
def issuing (e : Engine) (w : Word) : State := withEvents e [.access (writeCmd w), .reset]

/-- One access from an engine; a further event waits behind it. -/
def accessing (e : Engine) (a : HostAccess) : State := withEvents e [.access a, .reset]

/-- The engine after one step. -/
def engineAfter (s : State) : Option Engine :=
  match step s with
  | .next t => some t.eng
  | .fault _ => none
  | .refused _ => none

/-- The engine after the step that performs the write of a word to CMD. -/
def afterWord (e : Engine) (w : Word) : Option Engine := engineAfter (issuing e w)

/-- What one access returns to the host, with the engine after it. -/
def returned (e : Engine) (a : HostAccess) : Option (List Word × Bool) :=
  match step (accessing e a) with
  | .next t => some (t.received, t.eng == e)
  | .fault _ => none
  | .refused _ => none

/-- The fault of the step that performs one access. -/
def faultOf (a : HostAccess) : Option Fault :=
  match step (accessing usedEngine a) with
  | .next _ => none
  | .fault f => some f
  | .refused _ => none

/-! ### WellFormed: each check refuses an ill-formed term -/

theorem test_wf_rsvd : (CommandFields.mk 1 0x11 0x31).rsvdOk = false ∧ (CommandFields.mk 1 0x11 0x31).wellFormed = false := by
  decide

theorem test_wf_opc : (CommandFields.mk 0 0x13 0x00).opcOk = false ∧ (CommandFields.mk 0 0x13 0x00).wellFormed = false := by
  decide

theorem test_wf_imm : (CommandFields.mk 0 0x10 0x01).immOk = false ∧ (CommandFields.mk 0 0x10 0x01).wellFormed = false := by
  decide

theorem test_wf_fields_accepted : (CommandFields.mk 0 0x11 0xFF).wellFormed = true ∧ (Instr.shaAppend 0xFF).wellFormed = true := by
  decide

theorem test_wf_byte : (AsmByte.dec 256).wellFormed = false ∧ (AsmByte.hex 0x100).wellFormed = false ∧
    (AsmByte.chr 'é').wellFormed = false ∧ (AsmByte.dec 255).wellFormed = true := by decide

theorem test_wf_line : (AsmLine.shaAppend (.dec 256)).wellFormed = false ∧ (AsmLine.crcAppend (.dec 256)).wellFormed = false ∧
    (AsmLine.word 0x100000000).wellFormed = false ∧ (AsmLine.wr .cmd 0x100000000).wellFormed = false ∧
    (AsmLine.shaFeed ['é']).wellFormed = false ∧ (AsmLine.crcFeed ['é']).wellFormed = false ∧
    (AsmLine.shaHash ['é']).wellFormed = false ∧ (AsmLine.crcHash ['é']).wellFormed = false := by decide

/-- Two instances side by side, in different reset domains. -/
def twoInstances : PlatformConfig := ⟨[⟨0x1000, 7, 0⟩, ⟨0x1100, 8, 1⟩]⟩

theorem test_wf_platform : (PlatformConfig.mk []).someEngine = false ∧
    (PlatformConfig.mk [⟨0x1080, 0, 0⟩]).basesAligned = false ∧
    (PlatformConfig.mk [⟨0x1000, 0, 0⟩, ⟨0x1000, 1, 1⟩]).basesDistinct = false ∧ twoInstances.wellFormed = true := by decide

/-! ### Decoding: 30_encoding.md R72 written out, and the words of 95_test_vectors.md 2.1 -/

theorem test_decode_control : decode 0b00000000000000000000000000000000 = .command .nop ∧
    decode 0b00000000000000000000000100000000 = .command .clrErr := by decide

theorem test_decode_sha : decode 0b00000000000000000001000000000000 = .command .shaReset ∧
    decode 0b00000000000000000001000111111111 = .command (.shaAppend 0xFF) ∧
    decode 0b00000000000000000001001000000000 = .command .shaGet := by decide

theorem test_decode_crc : decode 0b00000000000000000010000000000000 = .command .crcReset ∧
    decode 0b00000000000000000010000100110001 = .command (.crcAppend 0x31) ∧
    decode 0b00000000000000000010001000000000 = .command .crcGet := by decide

theorem test_decode_nonzero_imm : decode 0x00000001 = .illegal .nonzeroImm ∧ decode 0x000010FF = .illegal .nonzeroImm ∧
    decode 0x00002201 = .illegal .nonzeroImm := by decide

theorem test_decode_undefined_opc : decode 0x00000200 = .illegal .undefinedOpc ∧ decode 0x00001300 = .illegal .undefinedOpc ∧
    decode 0x0000FF00 = .illegal .undefinedOpc ∧ decode 0x00000301 = .illegal .undefinedOpc := by decide

theorem test_decode_reserved_bits : decode 0x00010000 = .illegal .reservedBits ∧ decode 0x80001100 = .illegal .reservedBits ∧
    decode 0x00FF0301 = .illegal .reservedBits ∧ decode 0xFFFFFFFF = .illegal .reservedBits := by decide

theorem test_encode_rows : opcodeTable.map (·.matchWord) =
      [0x00000000, 0x00000100, 0x00001000, 0x00001100, 0x00001200, 0x00002000, 0x00002100, 0x00002200] ∧
    encode (.crcAppend 0x31) = 0x00002131 ∧ encode (.shaAppend 0xFF) = 0x000011FF := by decide

theorem test_no_two_rows_overlap :
    opcodeTable.Pairwise fun a b => a.matchWord &&& (a.mask &&& b.mask) ≠ b.matchWord &&& (a.mask &&& b.mask) := by decide

/-! ### Commands, one step each -/

/-- 95_test_vectors.md 2.1: no effect, an error record included. -/
theorem test_nop : afterWord usedEngine 0x00000000 = some usedEngine := by decide +kernel

/-- 95_test_vectors.md P3 step 11, from a used state: STATUS keeps its VALID bits. -/
theorem test_clr_err : (afterWord usedEngine 0x00000100).map (fun e => (statusWord e, e.errCmd, e.shaBuf.length)) =
    some (0x00000006, 0, 63) := by decide +kernel

/-- 42_sha1_core.md R130; the result and STATUS stay (70_reset_and_hazards.md R232). -/
theorem test_sha_reset : (afterWord usedEngine 0x00001000).map (fun e => (e.shaH, e.shaBuf, e.shaBlk, e.resDig, statusWord e)) =
    some (sha1Iv, [], 0, digest123, 0x00000027) := by decide +kernel

/-- 95_test_vectors.md P4 step 65 and the counter wrap of 2.4. -/
theorem test_sha_append_fills_the_block : (afterWord usedEngine 0x00001161).map (fun e => (e.shaH, e.shaBuf, e.shaBlk)) =
    some (⟨0xDA4968EB, 0x2E377C1F, 0x884E8F52, 0x83524BEB, 0xE74EBDBD⟩, [], 0) := by decide +kernel

/-- 42_sha1_core.md R131: the byte goes last, and 63 bytes are no block. -/
theorem test_sha_append_short : (afterWord { usedEngine with shaBuf := List.replicate 62 0x61 } 0x000011FF).map
    (fun e => (e.shaH, e.shaBuf.length, e.shaBuf.getLast?, e.shaBlk)) =
      some (sha1Iv, 63, some 0xFF, 0xFFFFFFFFFFFFFFFF) := by decide +kernel

/-- 95_test_vectors.md S1: SHA-1 of the empty input, from the reset state. -/
theorem test_sha_get_empty : (afterWord Engine.reset 0x00001200).map (fun e => (String.ofList (sha1DigestOf e.resDig).hex, statusWord e)) =
    some ("da39a3ee5e6b4b0d3255bfef95601890afd80709", 0x00000002) := by decide +kernel

/-- 95_test_vectors.md S2: SHA-1 of "123"; the unit is not written. -/
theorem test_sha_get_123 : (afterWord { Engine.reset with shaBuf := [0x31, 0x32, 0x33] } 0x00001200).map
    (fun e => (e.resDig, e.shaBuf, e.shaH, e.shaBlk)) = some (digest123, [0x31, 0x32, 0x33], sha1Iv, 0) := by decide +kernel

/-- 43_crc32.md R162; the result stays. -/
theorem test_crc_reset : (afterWord usedEngine 0x00002000).map (fun e => (e.crcAcc, e.resCrc, e.crcValid)) =
    some (0xFFFFFFFF, 0x4F5344CD, true) := by decide +kernel

/-- 95_test_vectors.md 2.5, the byte trace of "123": first byte. -/
theorem test_crc_append_first : (afterWord Engine.reset 0x00002131).map (·.crcAcc) = some 0x7C231048 := by decide +kernel

/-- 95_test_vectors.md 2.5: third byte, and the snapshot unchanged (P2 step 6). -/
theorem test_crc_append_third : (afterWord usedEngine 0x00002133).map (fun e => (e.crcAcc, e.resCrc)) =
    some (0x77B79C2D, 0x4F5344CD) := by decide +kernel

/-- 95_test_vectors.md S3. -/
theorem test_crc_get : (afterWord { Engine.reset with crcAcc := 0x77B79C2D } 0x00002200).map
    (fun e => (e.resCrc, e.crcAcc, statusWord e)) = some (0x884863D2, 0x77B79C2D, 0x00000004) := by decide +kernel

/-- 95_test_vectors.md S4. -/
theorem test_crc_get_empty : (afterWord Engine.reset 0x00002200).map (·.resCrc) = some 0 := by decide +kernel

/-! ### Illegal words and refused accesses -/

/-- 95_test_vectors.md 2.1: STATUS and ERR_CMD after one illegal word from the reset state. -/
theorem test_illegal_records : (afterWord Engine.reset 0x00001300).map (fun e => (statusWord e, e.errCmd)) = some (0x21, 0x1300) ∧
    (afterWord Engine.reset 0x000010FF).map (fun e => (statusWord e, e.errCmd)) = some (0x31, 0x10FF) ∧
    (afterWord Engine.reset 0xFFFFFFFF).map (fun e => (statusWord e, e.errCmd)) = some (0x11, 0xFFFFFFFF) := by decide +kernel

/-- 95_test_vectors.md 2.1: the first error sticks. -/
theorem test_illegal_is_sticky : afterWord usedEngine 0x00010000 = some usedEngine := by decide +kernel

/-- 95_test_vectors.md 2.2. -/
theorem test_reads_after_reset : returned Engine.reset (.read 0x04 32) = some ([0], true) ∧
    returned Engine.reset (.read 0x30 32) = some ([0x67452301], true) ∧
    returned Engine.reset (.read 0x40 32) = some ([0xC3D2E1F0], true) ∧
    returned Engine.reset (.read 0x50 32) = some ([0xFFFFFFFF], true) := by decide +kernel

/-- 10_state.md R30: the registers behind the other offsets, each with a value of its own. -/
theorem test_reads_in_use : returned usedEngine (.read 0x08 32) = some ([0x00001300], true) ∧
    returned usedEngine (.read 0x10 32) = some ([0x40BD0015], true) ∧
    returned usedEngine (.read 0x20 32) = some ([0xCBDBBEEF], true) ∧
    returned usedEngine (.read 0x24 32) = some ([0x4F5344CD], true) ∧
    returned usedEngine (.read 0x44 32) = some ([63], true) ∧
    returned { usedEngine with shaBlk := 0x0123456789ABCDEF } (.read 0x48 32) = some ([0x89ABCDEF], true) ∧
    returned { usedEngine with shaBlk := 0x0123456789ABCDEF } (.read 0x4C 32) = some ([0x01234567], true) := by decide +kernel

/-- 95_test_vectors.md 2.2: the accesses that end in BusError. -/
theorem test_bus_errors : ([.read 0x00 32, .write 0x04 32 0, .read 0x0C 32, .read 0x28 32, .read 0x54 32, .read 0xFC 32,
    .read 0x12 32, .write 0x00 8 0x31, .read 0x10 16] : List HostAccess).map faultOf =
    ([0x00, 0x04, 0x0C, 0x28, 0x54, 0xFC, 0x12, 0x00, 0x10].map fun off => some (.busError off)) := by decide +kernel

/-- 70_reset_and_hazards.md R230. -/
theorem test_hardware_reset : engineAfter (withEvents usedEngine [.reset]) = some Engine.reset := by decide +kernel

/-- 70_reset_and_hazards.md R231: with nothing pending nothing happens. -/
theorem test_idle : step State.reset = .next State.reset := rfl

/-! ### The SHA-1 functions (95_test_vectors.md 2.3, 2.4) -/

/-- 95_test_vectors.md 2.3.1: the block of "abc". -/
def blockAbc : List Byte := [0x61, 0x62, 0x63, 0x80] ++ List.replicate 59 0 ++ [0x18]

theorem test_schedule_abc : [0, 15, 16, 17, 18, 19, 79].map (fun t => (schedule blockAbc).getD t 0) =
    [0x61626380, 0x00000018, 0xC2C4C700, 0x00000000, 0x00000030, 0x85898E01, 0x822E0879] := by decide +kernel

theorem test_transform_abc : sha1Transform sha1Iv blockAbc =
    ⟨0xA9993E36, 0x4706816A, 0xBA3E2571, 0x7850C26C, 0x9CD0D89D⟩ := by decide +kernel

/-- 95_test_vectors.md 2.3.1: the working variables after rounds 0 and 59. -/
theorem test_rounds_abc : roundsFrom 0 ((schedule blockAbc).take 1) (workOf sha1Iv) =
      ⟨0x0116FC33, 0x67452301, 0x7BF36AE2, 0x98BADCFE, 0x10325476⟩ ∧
    roundsFrom 0 ((schedule blockAbc).take 60) (workOf sha1Iv) =
      ⟨0x3F52DE5A, 0x09D785FD, 0x3498BFD4, 0xF211824F, 0xD79915AB⟩ := by decide +kernel

/-- 95_test_vectors.md 2.3.2. -/
theorem test_round_functions : [0, 19, 20, 39, 40, 59, 60, 79].map (fun t => roundFn t 0xF0F0F0F0 0xCCCCCCCC 0xAAAAAAAA) =
    [0xCACACACA, 0xCACACACA, 0x96969696, 0x96969696, 0xE8E8E8E8, 0xE8E8E8E8, 0x96969696, 0x96969696] := by decide +kernel

/-- 95_test_vectors.md 2.3.2. -/
theorem test_rotl32 : rotl32 0x80000001 1 = 0x00000003 ∧ rotl32 0x12345678 5 = 0x468ACF02 ∧
    rotl32 0x12345678 30 = 0x048D159E := by decide

/-- 95_test_vectors.md 2.3.3. -/
theorem test_corner_blocks : sha1Transform ⟨0, 0, 0, 0, 0⟩ (List.replicate 64 0) =
      ⟨0x9E1547ED, 0x57EC91C2, 0x30FA8BC8, 0xC7785A54, 0xA7EFA5E3⟩ ∧
    sha1Transform sha1Iv (List.replicate 64 0xFF) = ⟨0xBAFBC2C8, 0x7C333226, 0x03F38E06, 0xC3E0F79C, 0x1F1B1475⟩ := by
  decide +kernel

/-- 95_test_vectors.md 2.4, the bit lengths, the wrapping ones included. -/
theorem test_bit_length : bitLength 0 3 = 0x18 ∧ bitLength 0 55 = 0x1B8 ∧ bitLength 1 3 = 0x218 ∧
    bitLength 0x100000000 0 = 0x0000020000000000 ∧ bitLength 0x0400000000000000 0 = 0 ∧
    bitLength 0x03FFFFFFFFFFFFFF 63 = 0xFFFFFFFFFFFFFFF8 ∧ bitLength 0xFFFFFFFFFFFFFFFF 0 = 0xFFFFFFFFFFFFFE00 := by decide

/-- 95_test_vectors.md 2.4: the digests of "a"*55, "a"*56 and "a"*63. -/
theorem test_finalize_boundaries : [55, 56, 63].map (fun n => String.ofList (sha1DigestOf (sha1Finalize sha1Iv (List.replicate n 0x61) 0)).hex) =
    ["c1c8bbdc22796e28c0e15163d20899b65621d65a", "c2db330f6083854c99d4b5bfb6e8f29f201be699",
      "03f09f5b158a7a8cdad920bddc29b81c18a551f5"] := by decide +kernel

/-! ### CRC-32 (95_test_vectors.md 2.5) -/

theorem test_crc_table : crcTable 0x01 = 0x77073096 ∧ crcTable 0x80 = 0xEDB88320 ∧ crcTable 0xFF = 0x2D02EF8D ∧
    crcTable 0xCE = 0x7CDCEFB7 := by decide

/-- V-C6, V-C7b and V-C10. -/
theorem test_crc_reference : crc32Reference (asciiBytes "123456789".toList) = 0xCBF43926 ∧ crc32Reference [0xFF] = 0xFF000000 ∧
    crc32Reference [0xFF, 0xFF, 0xFF, 0xFF] = 0xFFFFFFFF := by decide +kernel

/-! ### The host's side (95_test_vectors.md 2.6) -/

theorem test_hex : String.ofList (crc32DigestOf 0).hex = "00000000" ∧ String.ofList (crc32DigestOf 0x0000ABCD).hex = "0000abcd" := by
  decide +kernel

theorem test_eq_hex : (sha1DigestOf digest123).eqHex "40BD001563085FC35165329EA1FF5C5ECBDBBEEF".toList = true ∧
    (sha1DigestOf digest123).eqHex "40bd001563085fc35165329ea1ff5c5ecbdbbeee".toList = false ∧
    (sha1DigestOf digest123).eqHex "40bd001563085fc35165329ea1ff5c5ecbdbbee".toList = false := by decide +kernel

/-- 30_encoding.md R76 and R77, lines as 95_test_vectors.md section 3 writes them. -/
theorem test_assembler_text : assembleText "sha.append '1'".toList = some [writeCmd 0x00001131] ∧
    assembleText "crc.append 0x31".toList = some [writeCmd 0x00002131] ∧
    assembleText "sha.append 255".toList = some [writeCmd 0x000011FF] ∧
    assembleText "sha.append 256".toList = none ∧
    assembleText ".word 0x00001300".toList = some [writeCmd 0x00001300] ∧
    assembleText "rd SHA_PENDLEN".toList = some [.read 0x44 32] ∧
    assembleText "wr STATUS, 0".toList = some [.write 0x04 32 0] ∧
    assembleText "crc.feed \"12\"".toList = some [writeCmd 0x00002131, writeCmd 0x00002132] := by decide +kernel

/-! ### Witnesses: the hypotheses of the statements can be met -/

theorem witness_ResetSignalSetsEveryElement :
    ResetSignal (withEvents usedEngine [.reset, .access (writeCmd 0)]) [.access (writeCmd 0)] := rfl

/-- The hypotheses of `RejectedNeighbours` at the lowest and the highest low byte, with the record clear and set. -/
theorem witness_RejectedNeighbours :
    (1 : Byte) ≠ 0 ∧ Issues (issuing Engine.reset (0x00001000 ||| (1 : Byte).setWidth 32)) (0x00001000 ||| (1 : Byte).setWidth 32) [.reset] ∧
    (0xFF : Byte) ≠ 0 ∧ Issues (issuing usedEngine (0x00000100 ||| (0xFF : Byte).setWidth 32)) (0x00000100 ||| (0xFF : Byte).setWidth 32) [.reset] :=
  ⟨by decide, rfl, by decide, rfl⟩

theorem witness_ShaAppendTakesOneByte : State.reset.eng.shaBuf.length + 1 ≠ 64 ∧
    (withEvents { usedEngine with shaBuf := List.replicate 62 0 } []).eng.shaBuf.length + 1 ≠ 64 ∧
    (withEvents usedEngine []).eng.shaBuf.length + 1 = 64 := by decide

theorem witness_EveryLegalCommandCompletes : Instr.shaAppend 0xFF ≠ .clrErr := by decide

theorem witness_CommandsRunWhileAnErrorIsRecorded : Instr.crcAppend 0 ≠ .clrErr := by decide

/-- A register that each arm's hypotheses allow. -/
theorem witness_CommandsLeaveOtherRegistersReadingAsBefore : Reg.crcAcc ≠ .status ∧ Reg.crcAcc ≠ .errCmd ∧
    (∀ k, Reg.crcAcc ≠ .shaH k) ∧ Reg.crcAcc ≠ .shaPendlen ∧ Reg.crcAcc ≠ .shaBlkcntLo ∧ Reg.crcAcc ≠ .shaBlkcntHi ∧
    (∀ k, Reg.crcAcc ≠ .shaDigest k) ∧ Reg.shaPendlen ≠ .crcAcc ∧ Reg.crcAcc ≠ .crcResult := by decide

theorem witness_StepRunsTheDecodedCommand : Issues (issuing usedEngine 0x000011FF) 0x000011FF [.reset] ∧
    decode 0x000011FF = .command (.shaAppend 0xFF) := ⟨rfl, by decide⟩

/-- Both clauses of the record, and the second half on a step that is neither a CLR_ERR nor a reset. -/
theorem witness_IllegalCommandIsRecordedOnceAndKept :
    (Issues (issuing Engine.reset 0x00001300) 0x00001300 [.reset] ∧ decode 0x00001300 = .illegal .undefinedOpc ∧
      (issuing Engine.reset 0x00001300).eng.err = false) ∧
    (Issues (issuing usedEngine 0x00010000) 0x00010000 [.reset] ∧ decode 0x00010000 = .illegal .reservedBits ∧
      (issuing usedEngine 0x00010000).eng.err = true) ∧
    (Issues (issuing Engine.reset 0x00002201) 0x00002201 [.reset] ∧ decode 0x00002201 = .illegal .nonzeroImm) ∧
    ∃ t, step (issuing usedEngine 0x00001000) = .next t ∧ (issuing usedEngine 0x00001000).eng.err = true ∧
      (∀ rest, ¬ ResetSignal (issuing usedEngine 0x00001000) rest) ∧
      (∀ rest, ¬ Issues (issuing usedEngine 0x00001000) 0x00000100 rest) := by
  refine ⟨⟨rfl, by decide, rfl⟩, ⟨rfl, by decide, rfl⟩, ⟨rfl, by decide⟩, _, rfl, rfl, fun rest h => ?_, fun rest h => ?_⟩
  · simp [ResetSignal, issuing, withEvents] at h
  · simp [Issues, issuing, withEvents, writeCmd] at h

theorem witness_OnlyCommandsAndResetChangeTheEngine :
    (Issues (issuing usedEngine 0x00001000) 0x00001000 [.reset] ∧ decode 0x00001000 = .command .shaReset) ∧
    (Issues (issuing usedEngine 0x00FF0301) 0x00FF0301 [.reset] ∧ decode 0x00FF0301 = .illegal .reservedBits) ∧
    (∃ t, step (issuing usedEngine 0x00001000) = .next t ∧ t.eng ≠ (issuing usedEngine 0x00001000).eng) ∧
    ∃ t, step (withEvents usedEngine [.reset]) = .next t ∧ t.eng ≠ (withEvents usedEngine [.reset]).eng :=
  ⟨⟨rfl, by decide⟩, ⟨rfl, by decide⟩, ⟨_, rfl, by decide +kernel⟩, ⟨_, rfl, by decide +kernel⟩⟩

/-- One admitted and one refused access on each side of every bound of 20_memory.md R52. -/
theorem witness_AdmittedAccessesAreTheListedOnes : Admitted (.read 0x04 32) ∧ Admitted (.read 0x50 32) ∧
    Admitted (.write 0x00 32 0xFFFFFFFF) ∧ ¬ Admitted (.read 0x00 32) ∧ ¬ Admitted (.read 0x54 32) ∧
    ¬ Admitted (.read 0x0C 32) ∧ ¬ Admitted (.read 0x12 32) ∧ ¬ Admitted (.read 0x10 16) ∧ ¬ Admitted (.write 0x04 32 0) := by
  refine ⟨?_, ?_, ?_, ?_, ?_, ?_, ?_, ?_, ?_⟩
  · intro off; rw [show admission (.read 0x04 32) = .readReg .status by decide]; nofun
  · intro off; rw [show admission (.read 0x50 32) = .readReg .crcAcc by decide]; nofun
  · intro off; rw [show admission (.write 0x00 32 0xFFFFFFFF) = .issue 0xFFFFFFFF by decide]; nofun
  all_goals exact fun h => h _ rfl

theorem witness_RefusedAccessFaultsAndChangesNothing : ¬ Admitted (.write 0x00 8 0x31) ∧
    (accessing usedEngine (.write 0x00 8 0x31)).pending = .access (.write 0x00 8 0x31) :: [.reset] :=
  ⟨fun h => h _ rfl, rfl⟩

theorem witness_ReadsReturnTheRegisters : Reads (accessing usedEngine (.read 0x04 32)) 0x04 [.reset] ∧
    Reads (accessing usedEngine (.read 0x50 32)) 0x50 [.reset] := ⟨rfl, rfl⟩

theorem witness_BufferBytesCannotBeRead : (List.replicate 63 (0 : Byte)).length = usedEngine.shaBuf.length := by decide

theorem witness_BlockCountHalvesAreConsistent :
    (withEvents usedEngine [.access (.read 0x48 32), .access (.read 0x4C 32), .reset]).pending =
      .access (.read 0x48 32) :: .access (.read 0x4C 32) :: [.reset] := rfl

theorem witness_ReadAfterCommandSeesItsEffect : ∃ t v,
    (withEvents usedEngine [.access (.write 0x00 32 0x00002133), .access (.read 0x50 32), .reset]).pending =
      .access (.write 0x00 32 0x00002133) :: .access (.read (regOffset .crcAcc) 32) :: [.reset] ∧
    decode 0x00002133 = .command (.crcAppend 0x33) ∧
    exec (.crcAppend 0x33) (withEvents usedEngine [.reset]) = .next t ∧ regValue t.eng .crcAcc = some v :=
  ⟨_, _, rfl, by decide, rfl, rfl⟩

/-- A state with an error recorded and both results set is legal; so is one with no result. -/
theorem witness_legal_states : (issuing usedEngine 0x00001161).Legal ∧ State.reset.Legal :=
  ⟨⟨by decide, .inr ⟨rfl, .undefinedOpc, by decide, by decide⟩, nofun, nofun⟩,
    ⟨by decide, .inl ⟨rfl, rfl, rfl⟩, fun _ => rfl, fun _ => rfl⟩⟩

theorem witness_EveryStepKeepsTheStateLegal : ∃ t, (issuing usedEngine 0x00001161).Legal ∧
    step (issuing usedEngine 0x00001161) = .next t := ⟨_, witness_legal_states.1, rfl⟩

theorem witness_ResultsReadZeroUntilValid : State.reset.Legal ∧ State.reset.eng.shaValid = false ∧
    State.reset.eng.crcValid = false := ⟨witness_legal_states.2, rfl, rfl⟩

theorem witness_SafeRunsComplete :
    Safe (withEvents usedEngine [.access (.write 0x00 32 0xFFFFFFFF), .access (.read 0x50 32), .reset]) := by
  intro ev h
  simp only [withEvents, List.mem_cons, List.not_mem_nil, or_false] at h
  rcases h with rfl | rfl | rfl
  · exact witness_AdmittedAccessesAreTheListedOnes.2.2.1
  · exact witness_AdmittedAccessesAreTheListedOnes.2.1
  · exact trivial

/-- Each result changes on its GET, and on hardware reset. -/
theorem witness_ResultsAreWrittenOnlyByTheirGet :
    (∃ t, step (issuing usedEngine 0x00001200) = .next t ∧ t.eng.resDig ≠ (issuing usedEngine 0x00001200).eng.resDig) ∧
    (∃ t, step (issuing { usedEngine with crcAcc := 0x77B79C2D } 0x00002200) = .next t ∧ t.eng.resCrc ≠ usedEngine.resCrc) ∧
    ∃ t, step (withEvents usedEngine [.reset]) = .next t ∧ t.eng.resDig ≠ (withEvents usedEngine [.reset]).eng.resDig ∧
      t.eng.resCrc ≠ (withEvents usedEngine [.reset]).eng.resCrc :=
  ⟨⟨_, rfl, by decide +kernel⟩, ⟨_, rfl, by decide +kernel⟩, ⟨_, rfl, by decide +kernel, by decide +kernel⟩⟩

theorem witness_OnlyHardwareResetClearsValid :
    (∃ t, step (issuing usedEngine 0x00001000) = .next t ∧ (∀ rest, ¬ ResetSignal (issuing usedEngine 0x00001000) rest) ∧
      (issuing usedEngine 0x00001000).eng.shaValid = true ∧ (issuing usedEngine 0x00001000).eng.crcValid = true) ∧
    ResetSignal (withEvents usedEngine [.reset]) [] :=
  ⟨⟨_, rfl, fun rest h => by simp [ResetSignal, issuing, withEvents] at h, rfl, rfl⟩, rfl⟩

/-- An append that lengthens the buffer, one that fills the block, and one that moves the accumulator. -/
theorem witness_UnitStateHasOnlyItsWriters :
    (∀ w rest, ¬ ResetSignal (issuing usedEngine w) rest) ∧ (∀ w rest, ¬ ResetSignal (issuing Engine.reset w) rest) ∧
    (∃ t, step (issuing Engine.reset 0x00001131) = .next t ∧ t.eng.shaBuf ≠ Engine.reset.shaBuf) ∧
    (∃ t, step (issuing usedEngine 0x00001161) = .next t ∧ t.eng.shaH ≠ usedEngine.shaH ∧ t.eng.shaBlk ≠ usedEngine.shaBlk) ∧
    ∃ t, step (issuing usedEngine 0x00002133) = .next t ∧ t.eng.crcAcc ≠ usedEngine.crcAcc := by
  refine ⟨fun w rest h => ?_, fun w rest h => ?_, ⟨_, rfl, by decide +kernel⟩, ⟨_, rfl, by decide +kernel, by decide +kernel⟩,
    ⟨_, rfl, by decide +kernel⟩⟩ <;> simp [ResetSignal, issuing, withEvents] at h

/-- Two engines that differ in everything but the unit's own part. -/
theorem witness_UnitsAreIndependent : shaCommand (.shaAppend 0x61) = true ∧
    shaPart usedEngine = shaPart { usedEngine with crcAcc := 0, resCrc := 0, crcValid := false, err := false, errCode := 0, errCmd := 0 } ∧
    crcCommand (.crcAppend 0x61) = true ∧
    crcPart usedEngine = crcPart { usedEngine with shaBuf := [], resDig := ⟨0, 0, 0, 0, 0⟩, shaValid := false, err := false } :=
  ⟨rfl, rfl, rfl, rfl⟩

/-- A block, and the first and last index of each clause. -/
theorem witness_ScheduleFollowsItsRecurrence : blockAbc.length = 64 ∧ 0 < 16 ∧ 15 < 16 ∧ (16 ≤ 16 ∧ 16 < 80) ∧
    (16 ≤ 79 ∧ 79 < 80) := by decide

/-- The first and last round of each stage fall under its own clause. -/
theorem witness_StagesUseTheirFunctionAndConstant : [0, 19, 20, 39, 40, 59, 60, 79].map (· / 20) = [0, 0, 1, 1, 2, 2, 3, 3] ∧
    [0, 19, 20, 39, 40, 59, 60, 79].map roundConst = [0x5A827999, 0x5A827999, 0x6ED9EBA1, 0x6ED9EBA1, 0x8F1BBCDC, 0x8F1BBCDC,
      0xCA62C1D6, 0xCA62C1D6] := by decide

theorem witness_TransformRunsEightyRounds : (List.replicate 64 (0xFF : Byte)).length = 64 := by decide

theorem witness_RollingWindowGivesTheSameTransform : blockAbc.length = 64 := by decide

theorem witness_FinalisePadsInOneBlockOrTwo : ([] : List Byte).length ≤ 55 ∧ (List.replicate 55 (0x61 : Byte)).length ≤ 55 ∧
    56 ≤ (List.replicate 56 (0x61 : Byte)).length ∧ (List.replicate 56 (0x61 : Byte)).length ≤ 63 ∧
    56 ≤ (List.replicate 63 (0x61 : Byte)).length ∧ (List.replicate 63 (0x61 : Byte)).length ≤ 63 := by decide

theorem witness_LengthFieldIsTheLastTwoWords : ([] : List Byte).length ≤ 56 ∧ (List.replicate 56 (0x61 : Byte)).length ≤ 56 := by
  decide

/-- For the four statements about streams and the two about one-shot hashes: an instance in use with nothing pending. -/
theorem witness_streams : (withEvents usedEngine []).pending = [] ∧ State.reset.pending = [] := ⟨rfl, rfl⟩

theorem witness_CrcTableStepIsBitSerial : (withEvents usedEngine []).eng.crcAcc = 0xB0ACBB32 := rfl

/-- The first and last byte of a digest, and two renderings that agree. -/
theorem witness_HexRendersEveryNibble : 0 < 20 ∧ 19 < 20 ∧ (crc32DigestOf 0xABCD).hex = (crc32DigestOf 0xABCD).hex := by
  decide

theorem witness_PseudoInstructionsExpandAsListed : ∀ c ∈ ['1', '2', '\x00', '\x7f'], c.toNat < 128 := by simp

/-- One line and every clause's operands at the edge of its range: a value of 32 bits and one of 33, the least number and
character that are no byte operand, and a string with such a character. -/
theorem witness_AssembledCommandsAreAdmitted : assemble (.shaFeed ['1', '2']) = some [writeCmd 0x00001131, writeCmd 0x00001132] ∧
    (∀ r, AsmLine.shaFeed ['1', '2'] ≠ .rd r) ∧ (∀ r v, AsmLine.shaFeed ['1', '2'] ≠ .wr r v) ∧
    0xFFFFFFFF < 2 ^ 32 ∧ ¬ 256 ≤ 255 ∧ ¬ '\x80'.toNat < 128 ∧ 2 ^ 32 ≤ 0x100000000 ∧ (∃ c ∈ ['1', '\x80'], 128 ≤ c.toNat) :=
  ⟨by decide +kernel, nofun, nofun, by decide, by decide, by decide, by decide, '\x80', by decide, by decide⟩

/-- Two instances in use, and one event. -/
def platformWith (ev : PlatformEvent) : Platform := { engines := [usedEngine, usedEngine], pending := [ev], received := [] }

theorem witness_AccessChangesNoOtherInstance : ∃ p',
    (platformWith (.access 7 (.write 0x1000 32 0x00001000))).pending = .access 7 (.write 0x1000 32 0x00001000) :: [] ∧
    Platform.step twoInstances (platformWith (.access 7 (.write 0x1000 32 0x00001000))) = .next p' ∧
    twoInstances.instances[1]? = some ⟨0x1100, 8, 1⟩ ∧
    ¬ ((0x1100 : Nat) ≤ accessAddr (.write 0x1000 32 0x00001000) ∧ accessAddr (.write 0x1000 32 0x00001000) < 0x1100 + 256) :=
  ⟨_, rfl, rfl, rfl, by decide⟩

/-- The last window byte of the second instance, an admitted access, a refused one, and a foreign agent. -/
theorem witness_InstanceRunsAsTheOneInstanceMachine : twoInstances.wellFormed = true ∧
    twoInstances.instances[1]? = some ⟨0x1100, 8, 1⟩ ∧
    (platformWith (.access 8 (.read 0x1150 32))).engines[1]? = some usedEngine ∧
    (0x1100 ≤ accessAddr (.read 0x11FF 32) ∧ accessAddr (.read 0x11FF 32) < 0x1100 + 256) ∧
    (∃ t, performAccess (accessFrom 0x1100 (.read 0x1150 32)) (portOf usedEngine) = .next t) ∧
    (∃ f, performAccess (accessFrom 0x1100 (.read 0x11FF 32)) (portOf usedEngine) = .fault f) ∧ 7 ≠ 8 :=
  ⟨by decide, rfl, rfl, by decide, ⟨_, rfl⟩, ⟨_, rfl⟩, by decide⟩

theorem witness_ResetSignalReachesExactlyItsDomain : (platformWith (.reset 1)).pending = .reset 1 :: [] ∧
    (platformWith (.reset 1)).engines.length = twoInstances.instances.length ∧
    (match Platform.step twoInstances (platformWith (.reset 1)) with
      | .next p => p.engines
      | .fault _ => []
      | .refused _ => []) = [usedEngine, Engine.reset] := by decide +kernel

/-- 70_reset_and_hazards.md R237 and 20_memory.md R50: a foreign agent and an address in no window are refused; an instance's
own agent reads its own engine. -/
theorem test_platform_accesses : [(7, 0x1150), (8, 0x1200), (8, 0x1150)].map (fun x : Nat × Nat =>
    match Platform.step twoInstances (platformWith (.access x.1 (.read x.2 32))) with
    | .next p => (some p.received, none)
    | .fault _ => (none, none)
    | .refused r => (none, some r)) =
    [(none, some (.secondHostAgent 7)), (none, some (.outsideEveryWindow 0x1200)), (some [(8, 0xB0ACBB32)], none)] := by
  decide +kernel

end Sys2Proof.Tests
end

section
/-! SUPPORT. Which word decodes to a command, and which commands write the result registers (10_state.md R27). -/

namespace Sys2Proof

/-- What a decoded command says about the fields: they passed R73's three tests. -/
theorem decodeFields_eq_command {f : CommandFields} {i : Instr} (h : decodeFields f = .command i) :
    f.rsvd = 0 ∧ f.opc ∈ definedOpcs ∧ (f.opc ∈ appendOpcs ∨ f.imm8 = 0) ∧ commandOf f.opc f.imm8 = .command i := by
  unfold decodeFields at h
  split_ifs at h with hrsvd hopc himm
  exact ⟨not_not.1 hrsvd, hopc, by simpa [or_iff_not_imp_left] using himm, h⟩

/-- The fields of a decoded command are those of its own word. -/
theorem eq_fieldsOf_encode_of_decodeFields {f : CommandFields} {i : Instr} (h : decodeFields f = .command i) :
    f = fieldsOf (encode i) := by
  obtain ⟨hrsvd, hopc, himm, hcmd⟩ := decodeFields_eq_command h
  obtain ⟨rsvd, opc, imm⟩ := f
  dsimp only at hrsvd hopc himm hcmd
  subst hrsvd
  rcases himm with happend | rfl
  · simp only [appendOpcs, List.mem_cons, List.not_mem_nil, or_false] at happend
    rcases happend with rfl | rfl <;> cases hcmd
    · exact (fieldsOf_append 0x00001100 imm (by decide)).symm
    · exact (fieldsOf_append 0x00002100 imm (by decide)).symm
  · simp only [definedOpcs, List.mem_cons, List.not_mem_nil, or_false] at hopc
    rcases hopc with rfl | rfl | rfl | rfl | rfl | rfl | rfl | rfl <;> cases hcmd <;> decide

/-- Each command has exactly one word (30_encoding.md R72). -/
theorem eq_encode_of_decode {w : Word} {i : Instr} (h : decode w = .command i) : w = encode i :=
  fieldsOf_injective (eq_fieldsOf_encode_of_decodeFields h)

end Sys2Proof

namespace Sys2Proof.Machine

/-- Every command but SHA_GET leaves RES.DIG as it was. -/
theorem instrEffect_resDig {i : Instr} (h : i ≠ .shaGet) (e : Engine) : (instrEffect i e).resDig = e.resDig := by
  cases i with
  | shaAppend b => exact (appendSha_frame b e).2.1
  | shaGet => exact absurd rfl h
  | _ => rfl

/-- Every command but CRC_GET leaves RES.CRC as it was. -/
theorem instrEffect_resCrc {i : Instr} (h : i ≠ .crcGet) (e : Engine) : (instrEffect i e).resCrc = e.resCrc := by
  cases i with
  | shaAppend b => exact (appendSha_frame b e).2.2.1
  | crcGet => exact absurd rfl h
  | _ => rfl

/-- The effect of a word on the engine, by what the word decodes to. -/
theorem wordEffect_cases (w : Word) :
    (∃ i, w = encode i ∧ wordEffect w = instrEffect i) ∨
      ∃ c, decode w = .illegal c ∧ wordEffect w = Engine.recordError c w := by
  match h : decode w with
  | .command i => exact .inl ⟨i, eq_encode_of_decode h, by simp [wordEffect, h]⟩
  | .illegal c => exact .inr ⟨c, rfl, by simp [wordEffect, h]⟩

/-- A word other than SHA_GET's, legal or not, leaves RES.DIG as it was. -/
theorem wordEffect_resDig {w : Word} (h : w ≠ 0x00001200) (e : Engine) : (wordEffect w e).resDig = e.resDig := by
  rcases wordEffect_cases w with ⟨i, rfl, heff⟩ | ⟨c, -, heff⟩ <;> rw [heff]
  · exact instrEffect_resDig (by rintro rfl; exact h rfl) e
  · exact recordError_resDig e c w

/-- A word other than CRC_GET's, legal or not, leaves RES.CRC as it was. -/
theorem wordEffect_resCrc {w : Word} (h : w ≠ 0x00002200) (e : Engine) : (wordEffect w e).resCrc = e.resCrc := by
  rcases wordEffect_cases w with ⟨i, rfl, heff⟩ | ⟨c, -, heff⟩ <;> rw [heff]
  · exact instrEffect_resCrc (by rintro rfl; exact h rfl) e
  · exact recordError_resCrc e c w

/-- What a step that goes on can do to the engine: nothing, reset it, or run one command word. -/
theorem step_eng_cases {s t : State} (h : step s = .next t) :
    t.eng = s.eng ∨ (∃ rest, ResetSignal s rest ∧ t.eng = Engine.reset) ∨
      ∃ w rest, Issues s w rest ∧ t.eng = wordEffect w s.eng := by
  rcases step_next_cases h with
    ⟨-, rfl⟩ | ⟨rest, hp, rfl⟩ | ⟨w, rest, hp, rfl⟩ | ⟨r, v, rest, -, -, -, rfl⟩
  · exact .inl rfl
  · exact .inr (.inl ⟨rest, hp, rfl⟩)
  · exact .inr (.inr ⟨w, rest, hp, rfl⟩)
  · exact .inl rfl

/-- Who writes RES.DIG: SHA_GET, and hardware reset. -/
theorem step_resDig_writers {s t : State} (h : step s = .next t) (hne : t.eng.resDig ≠ s.eng.resDig) :
    (∃ rest, Issues s 0x00001200 rest) ∨ ((∃ rest, ResetSignal s rest) ∧ t.eng.resDig = ⟨0, 0, 0, 0, 0⟩) := by
  rcases step_eng_cases h with heng | ⟨rest, hreset, heng⟩ | ⟨w, rest, hw, heng⟩ <;> rw [heng] at hne ⊢
  · exact absurd rfl hne
  · exact .inr ⟨⟨rest, hreset⟩, engine_reset_resDig⟩
  · obtain rfl : w = 0x00001200 := by
      by_contra hother
      exact hne (wordEffect_resDig hother s.eng)
    exact .inl ⟨rest, hw⟩

/-- Who writes RES.CRC: CRC_GET, and hardware reset. -/
theorem step_resCrc_writers {s t : State} (h : step s = .next t) (hne : t.eng.resCrc ≠ s.eng.resCrc) :
    (∃ rest, Issues s 0x00002200 rest) ∨ ((∃ rest, ResetSignal s rest) ∧ t.eng.resCrc = 0) := by
  rcases step_eng_cases h with heng | ⟨rest, hreset, heng⟩ | ⟨w, rest, hw, heng⟩ <;> rw [heng] at hne ⊢
  · exact absurd rfl hne
  · exact .inr ⟨⟨rest, hreset⟩, engine_reset_resCrc⟩
  · obtain rfl : w = 0x00002200 := by
      by_contra hother
      exact hne (wordEffect_resCrc hother s.eng)
    exact .inl ⟨rest, hw⟩

end Sys2Proof.Machine
end

section
/-! The statements about the engine's state elements (10_state.md). -/

namespace Sys2Proof.Machine

/-- Settles O33: a step that goes on either leaves the engine alone, resets it or runs one command word, and only the
word of the GET writes its result. -/
theorem resultsAreWrittenOnlyByTheirGet : Obligations.ResultsAreWrittenOnlyByTheirGet :=
  ⟨engine_reset_resDig, engine_reset_resCrc, fun _ _ h => ⟨step_resDig_writers h, step_resCrc_writers h⟩⟩

/-- Settles O1: the reset state is written out in the model, element by element. -/
theorem resetStateHasTheListedValues : Obligations.ResetStateHasTheListedValues :=
  ⟨engine_reset_shaH, engine_reset_shaBuf, engine_reset_shaBlk, engine_reset_crcAcc, engine_reset_resDig,
    engine_reset_resCrc, engine_reset_err, engine_reset_errCode, engine_reset_shaValid, engine_reset_crcValid,
    engine_reset_errCmd⟩

end Sys2Proof.Machine
end

section
/-! SUPPORT. Which accesses the window admits, and what a read hands the host, register by register (20_memory.md R52,
R55). -/

namespace Sys2Proof.Machine

/-! ### Admitted accesses -/

/-- An admitted access reads a register or issues a command word. -/
theorem admitted_iff_reads_or_issues {a : HostAccess} :
    Admitted a ↔ (∃ r, admission a = .readReg r) ∨ ∃ w, admission a = .issue w := by
  unfold Admitted
  cases admission a <;> simp

theorem admitted_read_iff {off width : Nat} :
    Admitted (.read off width) ↔ width = 32 ∧ ∃ r, r ≠ .cmd ∧ regOffset r = off := by
  simp only [admitted_iff_reads_or_issues, admit_eq_readReg, admit_eq_issue]
  constructor
  · rintro (⟨r, ha, hr⟩ | ⟨w, ha⟩) <;> cases ha
    exact ⟨rfl, r, hr, rfl⟩
  · rintro ⟨rfl, r, hr, rfl⟩
    exact .inl ⟨r, rfl, hr⟩

theorem admitted_write_iff {off width : Nat} {data : BitVec width} :
    Admitted (.write off width data) ↔ width = 32 ∧ off = 0x00 := by
  simp only [admitted_iff_reads_or_issues, admit_eq_readReg, admit_eq_issue]
  constructor
  · rintro (⟨r, ha, hr⟩ | ⟨w, ha⟩) <;> cases ha
    exact ⟨rfl, rfl⟩
  · rintro ⟨rfl, rfl⟩
    exact .inr ⟨data, rfl⟩

/-- CMD is the first register of the table, and every other one can be read (10_state.md R30, R31). -/
theorem mem_tail_allRegs {r : Reg} : r ∈ allRegs.tail ↔ r ≠ .cmd := by
  cases r with
  | shaDigest i => revert i; decide
  | shaH i => revert i; decide
  | _ => decide

/-- The offsets of the readable registers, as 10_state.md R30 lists them. -/
theorem map_regOffset_tail_allRegs : allRegs.tail.map regOffset =
    [0x04, 0x08, 0x10, 0x14, 0x18, 0x1C, 0x20, 0x24, 0x30, 0x34, 0x38, 0x3C, 0x40, 0x44, 0x48, 0x4C, 0x50] := rfl

/-! ### The values of the registers -/

theorem bitWord_eq_setWidth_ofBool (b : Bool) : bitWord b = (BitVec.ofBool b).setWidth 32 := by
  cases b <;> rfl

/-- SHA_PENDLEN shows the low six bits of the number of pending bytes. -/
theorem pendlen_eq_ofNat_mod (n : Nat) : (BitVec.ofNat 6 n).setWidth 32 = BitVec.ofNat 32 (n % 64) := by
  apply BitVec.eq_of_toNat_eq
  simp

theorem loWord_eq_ofNat_toNat (v : DWord) : loWord v = BitVec.ofNat 32 v.toNat := by
  apply BitVec.eq_of_toNat_eq
  simp [loWord]

theorem hiWord_eq_ofNat_toNat_div (v : DWord) : hiWord v = BitVec.ofNat 32 (v.toNat / 2 ^ 32) := by
  apply BitVec.eq_of_toNat_eq
  simp [hiWord, Nat.shiftRight_eq_div_pow]

/-! ### Reads -/

/-- A register with a value gives it to every 32-bit read at its offset. -/
theorem readGives_regOffset {r : Reg} {v : Engine → Word} (hv : ∀ e, regValue e r = some (v e)) :
    ReadGives (regOffset r) v := by
  intro s rest hreads
  have hr : r ≠ .cmd := fun hcmd => by simpa [hv] using regValue_eq_none (e := s.eng).2 hcmd
  exact step_readReg hreads hr (hv s.eng)

theorem readGives_status : ReadGives 0x04 (fun e => (e.errCode.setWidth 32 <<< 4) |||
    ((BitVec.ofBool e.crcValid).setWidth 32 <<< 2) ||| ((BitVec.ofBool e.shaValid).setWidth 32 <<< 1) |||
    (BitVec.ofBool e.err).setWidth 32) :=
  readGives_regOffset (r := .status) fun e => by simp only [regValue, statusWord, bitWord_eq_setWidth_ofBool]

theorem readGives_shaDigest (k : Fin 5) : ReadGives (0x10 + 4 * k.val) (fun e => words5Get e.resDig k) :=
  readGives_regOffset (r := .shaDigest k) fun _ => rfl

theorem readGives_shaH (k : Fin 5) : ReadGives (0x30 + 4 * k.val) (fun e => words5Get e.shaH k) :=
  readGives_regOffset (r := .shaH k) fun _ => rfl

theorem readGives_shaPendlen : ReadGives 0x44 (fun e => BitVec.ofNat 32 (e.shaBuf.length % 64)) :=
  readGives_regOffset (r := .shaPendlen) fun _ => congrArg some (pendlen_eq_ofNat_mod _)

theorem readGives_shaBlkcntLo : ReadGives 0x48 (fun e => BitVec.ofNat 32 e.shaBlk.toNat) :=
  readGives_regOffset (r := .shaBlkcntLo) fun _ => congrArg some (loWord_eq_ofNat_toNat _)

theorem readGives_shaBlkcntHi : ReadGives 0x4C (fun e => BitVec.ofNat 32 (e.shaBlk.toNat / 2 ^ 32)) :=
  readGives_regOffset (r := .shaBlkcntHi) fun _ => congrArg some (hiWord_eq_ofNat_toNat_div _)

end Sys2Proof.Machine
end

section
/-! The statements about the register window (20_memory.md). -/

namespace Sys2Proof.Machine

/-- Settles O22: an admitted read stands at the offset of a register other than CMD, which is aligned and in the list; an
admitted write stands at CMD. -/
theorem admittedAccessesAreTheListedOnes : Obligations.AdmittedAccessesAreTheListedOnes := by
  refine ⟨fun off width => ?_, fun off width data => ?_⟩
  · rw [admitted_read_iff, ← map_regOffset_tail_allRegs]
    simp only [List.mem_map, mem_tail_allRegs]
    constructor
    · rintro ⟨hw, r, hr, rfl⟩
      exact ⟨hw, regOffset_aligned r, r, hr, rfl⟩
    · rintro ⟨hw, -, hreg⟩
      exact ⟨hw, hreg⟩
  · rw [admitted_write_iff]
    constructor
    · rintro ⟨hw, rfl⟩
      exact ⟨hw, rfl, rfl⟩
    · rintro ⟨hw, -, hoff⟩
      exact ⟨hw, hoff⟩

/-- Settles O25, register by register: each readable offset is a register's, and the step hands over that register's
value. -/
theorem readsReturnTheRegisters : Obligations.ReadsReturnTheRegisters :=
  ⟨readGives_status, readGives_regOffset (r := .errCmd) fun _ => rfl,
    readGives_shaDigest 0, readGives_shaDigest 1, readGives_shaDigest 2, readGives_shaDigest 3, readGives_shaDigest 4,
    readGives_regOffset (r := .crcResult) fun _ => rfl,
    readGives_shaH 0, readGives_shaH 1, readGives_shaH 2, readGives_shaH 3, readGives_shaH 4,
    readGives_shaPendlen, readGives_shaBlkcntLo, readGives_shaBlkcntHi,
    readGives_regOffset (r := .crcAcc) fun _ => rfl⟩

end Sys2Proof.Machine
end

section
/-! SUPPORT. The four outcomes of decoding a word, and the one word of each command (30_encoding.md R72, R73). -/

namespace Sys2Proof

/-! ### The outcomes of decoding -/

/-- Every operation code of the second test is a row of the opcode map. -/
theorem exists_commandOf_eq_command {opc : Byte} (h : opc ∈ definedOpcs) (imm : Byte) :
    ∃ i, commandOf opc imm = .command i := by
  simp only [definedOpcs, List.mem_cons, List.not_mem_nil, or_false] at h
  rcases h with rfl | rfl | rfl | rfl | rfl | rfl | rfl | rfl <;> exact ⟨_, rfl⟩

/-- The first test of R73 that fails gives the cause; fields that pass all three are a command's. -/
theorem decodeFields_cases (f : CommandFields) :
    (f.rsvd ≠ 0 ∧ decodeFields f = .illegal .reservedBits) ∨
    (f.rsvd = 0 ∧ f.opc ∉ definedOpcs ∧ decodeFields f = .illegal .undefinedOpc) ∨
    (f.rsvd = 0 ∧ f.opc ∈ definedOpcs ∧ ¬ (f.opc ∈ appendOpcs ∨ f.imm8 = 0) ∧
      decodeFields f = .illegal .nonzeroImm) ∨
    (f.rsvd = 0 ∧ f.opc ∈ definedOpcs ∧ (f.opc ∈ appendOpcs ∨ f.imm8 = 0) ∧
      ∃ i, decodeFields f = .command i) := by
  unfold decodeFields
  split_ifs with hrsvd hopc himm
  · exact .inl ⟨hrsvd, rfl⟩
  · exact .inr (.inr (.inl ⟨not_not.1 hrsvd, hopc, not_or.2 himm, rfl⟩))
  · exact .inr (.inr (.inr ⟨not_not.1 hrsvd, hopc, by simpa [or_iff_not_imp_left] using himm,
      exists_commandOf_eq_command hopc f.imm8⟩))
  · exact .inr (.inl ⟨not_not.1 hrsvd, hopc, rfl⟩)

/-- RSVD is 0 in the words below 2^16. -/
theorem fieldsOf_rsvd_eq_zero_iff {w : Word} : (fieldsOf w).rsvd = 0 ↔ w.toNat < 0x10000 := by
  have hval : (fieldsOf w).rsvd.toNat = w.toNat / 2 ^ 16 := by
    simp only [fieldsOf, BitVec.extractLsb'_toNat, Nat.shiftRight_eq_div_pow]
    omega
  rw [← BitVec.toNat_inj, hval]
  simp [Nat.div_eq_zero_iff]

theorem mem_appendOpcs {opc : Byte} : opc ∈ appendOpcs ↔ opc = 0x11 ∨ opc = 0x21 := by
  simp [appendOpcs]

/-- The four outcomes by the bits of the word. -/
theorem decode_cases (w : Word) :
    (¬ w.toNat < 0x10000 ∧ decode w = .illegal .reservedBits) ∨
    (w.toNat < 0x10000 ∧ w.extractLsb' 8 8 ∉ definedOpcs ∧ decode w = .illegal .undefinedOpc) ∨
    (w.toNat < 0x10000 ∧ w.extractLsb' 8 8 ∈ definedOpcs ∧
      ¬ (w.extractLsb' 8 8 ∈ appendOpcs ∨ w.extractLsb' 0 8 = 0) ∧ decode w = .illegal .nonzeroImm) ∨
    (w.toNat < 0x10000 ∧ w.extractLsb' 8 8 ∈ definedOpcs ∧
      (w.extractLsb' 8 8 ∈ appendOpcs ∨ w.extractLsb' 0 8 = 0) ∧ ∃ i, decode w = .command i) := by
  rw [← fieldsOf_rsvd_eq_zero_iff]
  exact decodeFields_cases (fieldsOf w)

/-! ### A command's word -/

theorem decode_encode (i : Instr) : decode (encode i) = .command i := by
  cases i with
  | shaAppend b => exact congrArg decodeFields (fieldsOf_append 0x00001100 b (by decide))
  | crcAppend b => exact congrArg decodeFields (fieldsOf_append 0x00002100 b (by decide))
  | _ => decide

theorem decode_eq_command_iff {w : Word} {i : Instr} : decode w = .command i ↔ w = encode i := by
  constructor
  · exact eq_encode_of_decode
  · rintro rfl
    exact decode_encode i

theorem and_fullMask (w : Word) : w &&& 0xFFFFFFFF = w := BitVec.and_allOnes

/-- A word is its upper 24 bits, which the mask of an append keeps, and its low byte. -/
theorem and_appendMask_or_low (w : Word) : (w &&& 0xFFFFFF00) ||| (w.extractLsb' 0 8).setWidth 32 = w := by
  have hlow : (w &&& 0xFFFFFF00).extractLsb' 0 8 = 0 := by simp [BitVec.extractLsb'_and]
  apply fieldsOf_injective
  rw [fieldsOf_append _ _ hlow]
  simp only [fieldsOf, BitVec.extractLsb'_and, CommandFields.mk.injEq, and_true]
  exact ⟨BitVec.and_allOnes, BitVec.and_allOnes⟩

/-- A command without operand: the mask keeps every bit, and the match word is the command's one word. -/
theorem decode_eq_command_iff_of_fullMask {i : Instr} (hmask : i.row.mask = 0xFFFFFFFF)
    (hword : encode i = i.row.matchWord) (w : Word) :
    decode w = .command i ↔ w &&& i.row.mask = i.row.matchWord := by
  rw [decode_eq_command_iff, hmask, and_fullMask, hword]

/-- A command whose operand is the low byte of its word. -/
theorem decode_eq_command_iff_of_appendMask {i : Instr} (hmask : i.row.mask = 0xFFFFFF00)
    (hrow : encode i &&& i.row.mask = i.row.matchWord) (hlow : (fieldsOf (encode i)).imm8 = i.imm8) (w : Word) :
    decode w = .command i ↔ w &&& i.row.mask = i.row.matchWord ∧ i.imm8 = w.extractLsb' 0 8 := by
  rw [decode_eq_command_iff]
  constructor
  · rintro rfl
    exact ⟨hrow, hlow.symm⟩
  · rintro ⟨hmatch, himm⟩
    rw [encode, ← hmatch, himm, hmask, and_appendMask_or_low]

theorem decode_eq_shaAppend_iff (w : Word) (b : Byte) :
    decode w = .command (.shaAppend b) ↔ w &&& 0xFFFFFF00 = 0x00001100 ∧ b = w.extractLsb' 0 8 :=
  decode_eq_command_iff_of_appendMask rfl (Laws.OpcodeRow.shaAppend b).2.1
    (congrArg CommandFields.imm8 (fieldsOf_append 0x00001100 b (by decide))) w

theorem decode_eq_crcAppend_iff (w : Word) (b : Byte) :
    decode w = .command (.crcAppend b) ↔ w &&& 0xFFFFFF00 = 0x00002100 ∧ b = w.extractLsb' 0 8 :=
  decode_eq_command_iff_of_appendMask rfl (Laws.OpcodeRow.crcAppend b).2.1
    (congrArg CommandFields.imm8 (fieldsOf_append 0x00002100 b (by decide))) w

end Sys2Proof

namespace Sys2Proof.Machine

theorem assemble_of_wellFormed {l : AsmLine} (h : l.wellFormed = true) : assemble l = some (lineAccesses l) :=
  if_pos h

theorem all_asciiChar_iff {s : List Char} : s.all asciiChar = true ↔ ∀ c ∈ s, c.toNat < 128 := by
  simp [asciiChar]

end Sys2Proof.Machine
end

section
/-! The statements about the encoding and the assembler (30_encoding.md). -/

namespace Sys2Proof.Machine

/-- Settles O15: the four cases of decoding exclude one another, and each gives its own outcome. -/
theorem decodeFollowsItsThreeTests : Obligations.DecodeFollowsItsThreeTests := by
  intro w opcDefined immAllowed
  have hopc : w.extractLsb' 8 8 ∈ definedOpcs ↔ opcDefined := Iff.rfl
  have himm : w.extractLsb' 8 8 ∈ appendOpcs ∨ w.extractLsb' 0 8 = 0 ↔ immAllowed := by
    rw [mem_appendOpcs, or_assoc]
  have hcases := decode_cases w
  rw [hopc, himm] at hcases
  rw [← Nat.not_lt]
  rcases hcases with ⟨hbits, hd⟩ | ⟨hbits, hopc, hd⟩ | ⟨hbits, hopc, himm, hd⟩ | ⟨hbits, hopc, himm, i, hd⟩
  · simp [hd, hbits]
  · simp [hd, hbits, hopc]
  · simp [hd, hbits, hopc, himm]
  · simp [hd, hbits, hopc, himm]

/-- Settles O16, row by row: each command has one word, and mask and match single it out. -/
theorem maskAndMatchDecideTheCommand : Obligations.MaskAndMatchDecideTheCommand := fun w =>
  ⟨decode_eq_command_iff_of_fullMask (i := .nop) rfl rfl w,
    decode_eq_command_iff_of_fullMask (i := .clrErr) rfl rfl w,
    decode_eq_command_iff_of_fullMask (i := .shaReset) rfl rfl w,
    decode_eq_shaAppend_iff w,
    decode_eq_command_iff_of_fullMask (i := .shaGet) rfl rfl w,
    decode_eq_command_iff_of_fullMask (i := .crcReset) rfl rfl w,
    decode_eq_crcAppend_iff w,
    decode_eq_command_iff_of_fullMask (i := .crcGet) rfl rfl w⟩

/-- Settles O54: the lines of ASCII strings are well formed, and a well-formed line assembles to the accesses it stands
for. -/
theorem pseudoInstructionsExpandAsListed : Obligations.PseudoInstructionsExpandAsListed := by
  refine ⟨fun s hs => ?_, assemble_of_wellFormed rfl, assemble_of_wellFormed rfl⟩
  have hascii : s.all asciiChar = true := all_asciiChar_iff.2 hs
  exact ⟨assemble_of_wellFormed (l := .shaFeed s) hascii, assemble_of_wellFormed (l := .crcFeed s) hascii,
    assemble_of_wellFormed (l := .shaHash s) hascii, assemble_of_wellFormed (l := .crcHash s) hascii⟩

end Sys2Proof.Machine
end

section
/-! SUPPORT. What the step of an admitted CMD write does, for a command and for an illegal word, and the illegal neighbours
of a command without operand (40_engine_control.md R92, 30_encoding.md R73). -/

namespace Sys2Proof

/-- A non-zero low byte beside an operation code without operand fails the third test and no other. -/
theorem decode_or_low_eq_nonzeroImm {m : Word} {opc nn : Byte} (hm : fieldsOf m = ⟨0, opc, 0⟩)
    (hdefined : opc ∈ definedOpcs) (hnoOperand : opc ∉ appendOpcs) (hnn : nn ≠ 0) :
    decode (m ||| nn.setWidth 32) = .illegal .nonzeroImm := by
  obtain ⟨hrsvd, hopc, hlow⟩ := CommandFields.mk.inj hm
  have hfields : fieldsOf (m ||| nn.setWidth 32) = ⟨0, opc, nn⟩ := by
    rw [fieldsOf_append m nn hlow, hrsvd, hopc]
  rw [decode, hfields, decodeFields, if_neg (not_not.2 rfl), if_neg (not_not.2 hdefined), if_pos ⟨hnoOperand, hnn⟩]

end Sys2Proof

namespace Sys2Proof.Machine

theorem wordEffect_of_command {w : Word} {i : Instr} (h : decode w = .command i) : wordEffect w = instrEffect i := by
  simp [wordEffect, h]

theorem wordEffect_of_illegal {w : Word} {c : IllegalCode} (h : decode w = .illegal c) :
    wordEffect w = Engine.recordError c w := by
  simp [wordEffect, h]

/-- Executing a command is updating the engine by its word's effect, as the step of its CMD write does. -/
theorem exec_eq_wordEffect {w : Word} {i : Instr} (h : decode w = .command i) (s : State) :
    exec i s = .next { s with eng := wordEffect w s.eng } := by
  rw [exec_eq_onEngine, wordEffect_of_command h]
  rfl

theorem recordError_eq_ite (e : Engine) (c : IllegalCode) (w : Word) :
    e.recordError c w = if e.err then e else { e with err := true, errCode := errCodeOf c, errCmd := w } := rfl

/-- The admitted write of an illegal word records its error and does nothing else. -/
theorem step_issues_illegal {s : State} {w : Word} {rest : List HostEvent} {c : IllegalCode} (hw : Issues s w rest)
    (h : decode w = .illegal c) : step s = .next { s with eng := s.eng.recordError c w, pending := rest } := by
  rw [step_writeCmd hw, wordEffect_of_illegal h]

/-- The words beside a command without operand, which differ from it in the low byte only, are rejected. -/
theorem rejectedNeighbours_of_fieldsOf {m : Word} {opc : Byte} (hm : fieldsOf m = ⟨0, opc, 0⟩)
    (hdefined : opc ∈ definedOpcs) (hnoOperand : opc ∉ appendOpcs) : RejectedNeighbours m := by
  intro nn hnn
  have hillegal := decode_or_low_eq_nonzeroImm hm hdefined hnoOperand hnn
  exact ⟨hillegal, fun s rest hw => step_issues_illegal hw hillegal⟩

end Sys2Proof.Machine
end

section
/-! The statements about engine control (40_engine_control.md). -/

namespace Sys2Proof.Machine

/-- Settles O21: the step of a CMD write has its word's effect, and the inversion of a step leaves no other writer of the
engine but hardware reset. -/
theorem onlyCommandsAndResetChangeTheEngine : Obligations.OnlyCommandsAndResetChangeTheEngine := by
  constructor
  · intro s w rest hw
    refine ⟨_, step_writeCmd hw, fun i hi => exec_eq_wordEffect hi _, fun code hcode => ?_⟩
    rw [wordEffect_of_illegal hcode, recordError_eq_ite]
    cases code <;> rfl
  · intro s t h hne
    rcases step_eng_cases h with heng | ⟨rest, hreset, -⟩ | ⟨w, rest, hw, -⟩
    · exact absurd heng hne
    · exact .inl ⟨rest, hreset⟩
    · exact .inr ⟨w, rest, hw⟩

/-- Settles O4: NOP's effect is the identity, and its word has operation code 0x00, which takes no operand. -/
theorem nopWritesNothing : Obligations.NopWritesNothing :=
  ⟨exec_eq_onEngine .nop, decode_encode .nop,
    rejectedNeighbours_of_fieldsOf (opc := 0x00) (by decide) (by decide) (by decide)⟩

/-- Settles O5: CLR_ERR's effect writes the three fields of the record, and its word has operation code 0x01, which takes
no operand. -/
theorem clrErrClearsOnlyTheRecord : Obligations.ClrErrClearsOnlyTheRecord :=
  ⟨exec_eq_onEngine .clrErr, decode_encode .clrErr,
    rejectedNeighbours_of_fieldsOf (opc := 0x01) (by decide) (by decide) (by decide)⟩

end Sys2Proof.Machine
end

section
/-! SUPPORT. The model's word operators as `BitVec`'s own, the words of a block by index, and where a word of the growing
schedule comes from (00_scope.md R8, R9, 41_sha1_transform.md R102, R103). -/

namespace Sys2Proof.Machine

/-! ### Words -/

theorem rotl32_eq_rotateLeft (a : Word) {n : Nat} (h : n < 32) : rotl32 a n = a.rotateLeft n :=
  (BitVec.rotateLeft_eq_rotateLeftAux_of_lt h).symm

/-- Appending a byte below a value shifts the value up by eight bits. -/
theorem setWidth_append_byte {n : Nat} (x : BitVec n) (b : Byte) :
    (x ++ b).setWidth 32 = (x.setWidth 32 <<< 8) ||| b.setWidth 32 := by
  apply BitVec.eq_of_getLsbD_eq
  intro i hi
  rcases lt_or_ge i 8 with hlow | hhigh
  · simp [BitVec.getLsbD_append, hi, hlow]
  · have hb : b.getLsbD i = false := BitVec.getLsbD_of_ge b i hhigh
    simp [BitVec.getLsbD_append, hi, hb, not_lt.2 hhigh]

theorem be32_eq_append (b0 b1 b2 b3 : Byte) : be32 b0 b1 b2 b3 = b0 ++ b1 ++ b2 ++ b3 := by
  have h : (b0 ++ b1 ++ b2 ++ b3).setWidth 32 = be32 b0 b1 b2 b3 := by
    simp only [setWidth_append_byte, BitVec.shiftLeft_or_distrib, ← BitVec.shiftLeft_add, be32]
  rw [← h, BitVec.setWidth_eq]

theorem beWords_getD (m : List Byte) {t : Nat} (h : 4 * t + 3 < m.length) : (beWords m).getD t 0 =
    m.getD (4 * t) 0 ++ m.getD (4 * t + 1) 0 ++ m.getD (4 * t + 2) 0 ++ m.getD (4 * t + 3) 0 := by
  induction m using beWords.induct generalizing t with
  | case1 b0 b1 b2 b3 rest ih =>
    rw [beWords]
    cases t with
    | zero => exact be32_eq_append b0 b1 b2 b3
    | succ t => exact ih (Nat.lt_of_add_lt_add_right (n := 4) h)
  | case2 m hm =>
    match m, hm with
    | b0 :: b1 :: b2 :: b3 :: rest, hm => exact absurd rfl (hm b0 b1 b2 b3 rest)

/-! ### The schedule -/

/-- A word of the extended list that is not one of the given ones is `nextWord` of the words before it. -/
theorem extendSchedule_split {n t : Nat} {older : List Word} (hle : older.length ≤ t) (hlt : t < n + older.length) :
    ∃ newer before, before.length = t ∧ extendSchedule n older = newer ++ nextWord before :: before := by
  induction n generalizing older with
  | zero => omega
  | succ n ih =>
    rcases hle.eq_or_lt with heq | hgt
    · obtain ⟨newer, hnewer⟩ := extendSchedule_suffix n (nextWord older :: older)
      exact ⟨newer, older, heq, hnewer⟩
    · exact ih (older := nextWord older :: older) hgt (by simp; omega)

/-- The position of `W[i]` in a newest-first list, whatever words lie above it. -/
theorem getD_reverse_append (newer older : List Word) {i : Nat} (h : i < older.length) :
    (newer ++ older).reverse.getD i 0 = older.getD (older.length - 1 - i) 0 := by
  rw [List.reverse_append, List.getD_append _ _ _ _ (by simpa using h), List.getD_reverse _ h]

theorem schedule_length {m : List Byte} (hm : m.length = 64) : (schedule m).length = 80 := by
  simp [schedule, extendSchedule_length, beWords_length, hm]

theorem schedule_getD_of_lt {m : List Byte} {t : Nat} (h : t < (beWords m).length) :
    (schedule m).getD t 0 = (beWords m).getD t 0 := by
  obtain ⟨newer, hnewer⟩ := extendSchedule_suffix 64 (beWords m).reverse
  rw [schedule, hnewer, List.reverse_append, List.reverse_reverse, List.getD_append _ _ _ _ h]

/-- R103's recurrence. The words `nextWord` reads at positions 2, 7, 13 and 15 of the newest-first list are the schedule's
own words 3, 8, 14 and 16 back. -/
theorem schedule_getD_recurrence {m : List Byte} {t : Nat} (h16 : 16 ≤ t) (hle : (beWords m).length ≤ t)
    (hlt : t < 64 + (beWords m).length) : (schedule m).getD t 0 =
      rotl32 ((schedule m).getD (t - 3) 0 ^^^ (schedule m).getD (t - 8) 0 ^^^ (schedule m).getD (t - 14) 0 ^^^
        (schedule m).getD (t - 16) 0) 1 := by
  obtain ⟨newer, before, rfl, hsplit⟩ := extendSchedule_split (older := (beWords m).reverse)
    (by simpa using hle) (by simpa using hlt)
  have hnew : (schedule m).getD before.length 0 = nextWord before := by
    rw [schedule, hsplit, getD_reverse_append _ _ (by simp)]
    simp
  have hback (k : Nat) (hk : k < 16) : (schedule m).getD (before.length - (k + 1)) 0 = before.getD k 0 := by
    rw [schedule, hsplit, List.append_cons, getD_reverse_append _ _ (by omega)]
    congr 1
    omega
  rw [hnew, hback 2 (by decide), hback 7 (by decide), hback 13 (by decide), hback 15 (by decide), nextWord]

/-! ### The rounds -/

/-- R109 with `BitVec`'s own rotation. -/
theorem roundStep_eq_rotateLeft (t : Nat) (w : Word) (v : Work) : roundStep t w v =
    { a := v.a.rotateLeft 5 + roundFn t v.b v.c v.d + v.e + roundConst t + w
      b := v.a, c := v.b.rotateLeft 30, d := v.c, e := v.d } := by
  rw [roundStep, rotl32_eq_rotateLeft _ (by decide), rotl32_eq_rotateLeft _ (by decide)]

/-- R110: the recursion over the words left is a fold over the round numbers. -/
theorem roundsFrom_eq_foldl_range (t : Nat) (ws : List Word) (v : Work) :
    roundsFrom t ws v = (List.range ws.length).foldl (fun v i => roundStep (t + i) (ws.getD i 0) v) v := by
  induction ws generalizing t v with
  | nil => rfl
  | cons w ws ih =>
    simp [roundsFrom, ih, List.range_succ_eq_map, List.foldl_map, Nat.add_assoc, Nat.add_comm 1]

end Sys2Proof.Machine
end

section
/-! The statements about the schedule and the transform (41_sha1_transform.md). -/

namespace Sys2Proof.Machine

/-- Settles O37: the first sixteen words are the block's own, and each later one was added by the recurrence. -/
theorem scheduleFollowsItsRecurrence : Obligations.ScheduleFollowsItsRecurrence := by
  intro m hm
  have hwords : (beWords m).length = 16 := by rw [beWords_length, hm]
  refine ⟨schedule_length hm, fun t ht => ?_, fun t hle hlt => ?_⟩
  · rw [schedule_getD_of_lt (by omega), beWords_getD m (by omega)]
  · rw [schedule_getD_recurrence hle (by omega) (by omega), rotl32_eq_rotateLeft _ (by decide)]

/-- Settles O39: the schedule has eighty words, so the rounds are the fold over 0 to 79. -/
theorem transformRunsEightyRounds : Obligations.TransformRunsEightyRounds := by
  intro h m hm
  simp only [sha1Transform, feedForward, workOf, roundsFrom_eq_foldl_range, schedule_length hm, roundStep_eq_rotateLeft,
    Nat.zero_add]

end Sys2Proof.Machine
end

section
/-! SUPPORT. The block count, the bit length and the length field of the final block, as bytes and as words
(42_sha1_core.md R132, R135, R137). -/

namespace Sys2Proof.Machine

/-! ### Words and their bytes -/

/-- A field of a field is a field of the whole value. -/
theorem extractLsb'_extractLsb' {n start len len' : Nat} (x : BitVec n) (start' : Nat) (h : start + len ≤ len') :
    (x.extractLsb' start' len').extractLsb' start len = x.extractLsb' (start' + start) len := by
  apply BitVec.eq_of_getLsbD_eq
  intro i hi
  have hin : start + i < len' := by omega
  simp [hi, hin, Nat.add_assoc]

/-- The four bytes of a word, put together again. -/
theorem append_bytes (w : Word) :
    w.extractLsb' 24 8 ++ w.extractLsb' 16 8 ++ w.extractLsb' 8 8 ++ w.extractLsb' 0 8 = w := by
  rw [BitVec.extractLsb'_append_extractLsb'_eq_extractLsb' (rfl : 24 = 16 + 8),
    BitVec.extractLsb'_append_extractLsb'_eq_extractLsb' (rfl : 16 = 8 + 8),
    BitVec.extractLsb'_append_extractLsb'_eq_extractLsb' (rfl : 8 = 0 + 8)]
  exact BitVec.extractLsb'_eq_self

/-- R25, R132: the block count wraps from 2^64 - 1 to 0. -/
theorem blockCount_succ (blk : DWord) : blk + 1 = BitVec.ofNat 64 ((blk.toNat + 1) % 2 ^ 64) :=
  BitVec.eq_of_toNat_eq (Nat.mod_mod _ _).symm

/-! ### The final block -/

/-- R135's reduction modulo 2^64 is the width of the value. -/
theorem bitLength_eq_ofNat_mod (blk : DWord) (len : Nat) :
    bitLength blk len = BitVec.ofNat 64 ((blk.toNat * 64 + len) * 8 % 2 ^ 64) :=
  BitVec.eq_of_toNat_eq (Nat.mod_mod _ _).symm

/-- The length field is the bit length, most significant byte first. -/
theorem lengthField_eq_bytes (bits : DWord) : lengthField bits =
    [bits.extractLsb' 56 8, bits.extractLsb' 48 8, bits.extractLsb' 40 8, bits.extractLsb' 32 8,
      bits.extractLsb' 24 8, bits.extractLsb' 16 8, bits.extractLsb' 8 8, bits.extractLsb' 0 8] := by
  simp [lengthField, bytesBe32, hiWord, loWord, extractLsb'_extractLsb']

theorem paddedData_length {p : List Byte} (h : p.length ≤ 56) : (p ++ zeros (lengthFieldAt - p.length)).length = 56 := by
  rw [List.length_append, zeros_length, lengthFieldAt]
  omega

theorem finalBlock_drop {p : List Byte} (h : p.length ≤ 56) (bits : DWord) :
    (finalBlock p bits).drop 56 = lengthField bits :=
  List.drop_left' (paddedData_length h)

theorem finalBlock_getD {p : List Byte} (h : p.length ≤ 56) (bits : DWord) (k : Nat) :
    (finalBlock p bits).getD (56 + k) 0 = (lengthField bits).getD k 0 := by
  have hlen := paddedData_length h
  rw [finalBlock, List.getD_append_right _ _ _ _ (by omega), hlen, Nat.add_sub_cancel_left]

/-- Words 14 and 15 of the final block's schedule are the two words of the length field. -/
theorem schedule_finalBlock {p : List Byte} (h : p.length ≤ 56) (bits : DWord) :
    (schedule (finalBlock p bits)).getD 14 0 = hiWord bits ∧ (schedule (finalBlock p bits)).getD 15 0 = loWord bits := by
  have hlen : (finalBlock p bits).length = 64 := finalBlock_length p bits h
  have hwords : (beWords (finalBlock p bits)).length = 16 := by rw [beWords_length, hlen]
  have hbyte := finalBlock_getD h bits
  constructor
  · rw [schedule_getD_of_lt (by omega), beWords_getD _ (by omega), hbyte 0, hbyte 1, hbyte 2, hbyte 3]
    exact append_bytes (hiWord bits)
  · rw [schedule_getD_of_lt (by omega), beWords_getD _ (by omega), hbyte 4, hbyte 5, hbyte 6, hbyte 7]
    exact append_bytes (loWord bits)

/-- The one-block case: after data and 0x80, zeros up to the length field. -/
theorem finalBlock_data (buf : List Byte) (bits : DWord) : finalBlock (buf ++ [0x80]) bits =
    buf ++ [0x80] ++ List.replicate (55 - buf.length) 0 ++ lengthField bits := by
  rw [finalBlock, List.length_append, List.length_singleton, lengthFieldAt, Nat.sub_add_eq, Nat.sub_right_comm, zeros]

/-- A final block without data: the second block of the two-block case. -/
theorem finalBlock_nil (bits : DWord) : finalBlock [] bits = List.replicate 56 0 ++ lengthField bits := rfl

end Sys2Proof.Machine
end

section
/-! The statements about the SHA-1 unit's commands and its finalisation (42_sha1_core.md). -/

namespace Sys2Proof.Machine

/-- Settles O7: an append is an update of the engine, which lengthens the buffer unless it holds 63 bytes and runs the block
step when it does. -/
theorem shaAppendTakesOneByte : Obligations.ShaAppendTakesOneByte := by
  refine ⟨fun b s hshort => ?_, fun b s hfull => ?_, fun b => decode_encode (.shaAppend b)⟩
  · rw [exec_eq_onEngine, State.onEngine, instrEffect, appendSha_short b (by omega), Engine.setShaBuf]
  · rw [exec_eq_onEngine, State.onEngine, instrEffect, appendSha_full b (by omega), Engine.takeBlock, blockCount_succ]

/-- Settles O41: the two cases of finalisation exclude one another, and each final block is written out. -/
theorem finalisePadsInOneBlockOrTwo : Obligations.FinalisePadsInOneBlockOrTwo := by
  intro h buf blk bits len
  have hlen : lengthField (bitLength blk buf.length) = len := by
    rw [bitLength_eq_ofNat_mod, lengthField_eq_bytes]
  rcases sha1Finalize_cases h buf blk with ⟨hle, hone⟩ | ⟨hgt, htwo⟩
  · exact ⟨fun _ => by rw [hone, finalBlock_data, hlen], fun hge _ => by omega⟩
  · exact ⟨fun hle => by omega, fun _ _ => by rw [htwo, finalBlock_nil, hlen, zeros]⟩

/-- Settles O42: what stands before the length field has 56 bytes, which are fourteen schedule words. -/
theorem lengthFieldIsTheLastTwoWords : Obligations.LengthFieldIsTheLastTwoWords := by
  intro p bits hp
  obtain ⟨hhi, hlo⟩ := schedule_finalBlock hp bits
  refine ⟨finalBlock_length p bits hp, ?_, ?_, ?_⟩
  · rw [finalBlock_drop hp, lengthField_eq_bytes]
  · rw [hhi, hiWord_eq_ofNat_toNat_div]
  · rw [hlo, loWord_eq_ofNat_toNat]

/-- Settles O6: SHA_RESET's effect writes the three elements of the unit, and its word has operation code 0x10, which takes
no operand. -/
theorem shaResetRestoresTheUnit : Obligations.ShaResetRestoresTheUnit :=
  ⟨exec_eq_onEngine .shaReset, decode_encode .shaReset,
    rejectedNeighbours_of_fieldsOf (opc := 0x10) (by decide) (by decide) (by decide)⟩

/-- Settles O8: SHA_GET's effect writes the snapshot and its VALID bit, and its word has operation code 0x12, which takes no
operand. -/
theorem shaGetWritesOnlyTheSnapshot : Obligations.ShaGetWritesOnlyTheSnapshot :=
  ⟨exec_eq_onEngine .shaGet, decode_encode .shaGet,
    rejectedNeighbours_of_fieldsOf (opc := 0x12) (by decide) (by decide) (by decide)⟩

end Sys2Proof.Machine
end

section
/-! SUPPORT. The accumulator step and the table iteration as arithmetic on a word's value and its low bits
(43_crc32.md R160, R163). -/

namespace Sys2Proof.Machine

/-- A logical shift right divides the value of a word. -/
theorem ushiftRight_eq_ofNat_div (w : Word) (k : Nat) : w >>> k = BitVec.ofNat 32 (w.toNat / 2 ^ k) := by
  apply BitVec.eq_of_toNat_eq
  have hlt : w.toNat / 2 ^ k < 2 ^ 32 := (Nat.div_le_self _ _).trans_lt w.isLt
  rw [BitVec.toNat_ushiftRight, Nat.shiftRight_eq_div_pow, BitVec.toNat_ofNat, Nat.mod_eq_of_lt hlt]

/-- The mask of R163's index keeps the low byte. -/
theorem setWidth_and_lowMask (w : Word) : (w &&& 0xFF).setWidth 8 = w.setWidth 8 := by
  rw [BitVec.setWidth_and]
  exact BitVec.and_allOnes

/-- The table is read at the low byte of the accumulator XOR the new byte. -/
theorem crcStep_byte (acc : Word) (b : Byte) : crcStep acc (b.setWidth 32) =
    crcTable (acc.extractLsb' 0 8 ^^^ b) ^^^ BitVec.ofNat 32 (acc.toNat / 256) := by
  have hindex : ((acc ^^^ b.setWidth 32) &&& 0xFF).setWidth 8 = acc.extractLsb' 0 8 ^^^ b := by
    rw [setWidth_and_lowMask, BitVec.setWidth_xor, BitVec.setWidth_setWidth_of_le b (by decide), BitVec.setWidth_eq,
      BitVec.setWidth_eq_extractLsb' (by decide)]
  rw [crcStep, hindex]
  exact congrArg _ (ushiftRight_eq_ofNat_div acc 8)

theorem and_one_eq_one_iff (c : Word) : c &&& 1 = 1 ↔ c.getLsbD 0 = true := by
  change c &&& 1#32 = 1#32 ↔ _
  rw [BitVec.and_one_eq_setWidth_ofBool_getLsbD]
  cases c.getLsbD 0 <;> decide

/-- An iteration halves the value and, for an odd one, adds the polynomial. -/
theorem crcBit_eq_halving (c : Word) : crcBit c =
    if c.getLsbD 0 then BitVec.ofNat 32 (c.toNat / 2) ^^^ crcPoly else BitVec.ofNat 32 (c.toNat / 2) := by
  simp only [crcBit, and_one_eq_one_iff, ushiftRight_eq_ofNat_div, Nat.pow_one]

/-- The iterations as a fold over their numbers, which no iteration reads. -/
theorem crcBits_eq_foldl_range (n : Nat) (c : Word) : crcBits n c = (List.range n).foldl (fun c _ => crcBit c) c := by
  induction n with
  | zero => rfl
  | succ n ih => rw [crcBits_add n 1, List.range_succ, List.foldl_concat, ih, crcBits, crcBits]

end Sys2Proof.Machine
end

section
/-! The statements about the CRC-32 unit's commands and its table (43_crc32.md). -/

namespace Sys2Proof.Machine

/-- Settles O10: an append is an update of the engine, which writes the accumulator's step on the byte. -/
theorem crcAppendFoldsOneByte : Obligations.CrcAppendFoldsOneByte := by
  refine ⟨fun b s => ?_, fun b => decode_encode (.crcAppend b)⟩
  rw [exec_eq_onEngine, State.onEngine, instrEffect, Engine.appendCrc, crcStep_byte, Engine.setCrcAcc]

/-- Settles O9: CRC_RESET's effect writes the accumulator, and its word has operation code 0x20, which takes no operand. -/
theorem crcResetRestoresTheAccumulator : Obligations.CrcResetRestoresTheAccumulator :=
  ⟨exec_eq_onEngine .crcReset, decode_encode .crcReset,
    rejectedNeighbours_of_fieldsOf (opc := 0x20) (by decide) (by decide) (by decide)⟩

/-- Settles O11: CRC_GET's effect writes the snapshot and its VALID bit, and its word has operation code 0x22, which takes
no operand. -/
theorem crcGetWritesOnlyTheSnapshot : Obligations.CrcGetWritesOnlyTheSnapshot :=
  ⟨exec_eq_onEngine .crcGet, decode_encode .crcGet,
    rejectedNeighbours_of_fieldsOf (opc := 0x22) (by decide) (by decide) (by decide)⟩

/-- Settles O47: an entry is eight iterations from its index, and each iteration is the halving the rule writes out. -/
theorem tableEntryIsEightIterations : Obligations.TableEntryIsEightIterations := by
  intro n
  simp only [crcTable, crcBits_eq_foldl_range, crcBit_eq_halving, crcPoly, BitVec.ofNat_toNat]

end Sys2Proof.Machine
end

section
/-! SUPPORT. Hex digits, and what the rendering of a byte sequence holds at each place (44_host_side.md R181, R182). -/

namespace Sys2Proof.Machine

/-! ### One hex digit -/

/-- A digit is read back as the value it renders. -/
theorem hexDigitValue_hexDigit {v : Nat} (h : v < 16) : hexDigitValue (hexDigit v) = some v := by
  revert v
  decide

theorem hexDigit_mem_alphabet {v : Nat} (h : v < 16) :
    hexDigit v ∈ ['0', '1', '2', '3', '4', '5', '6', '7', '8', '9', 'a', 'b', 'c', 'd', 'e', 'f'] := by
  revert v
  decide

theorem lowerHex_hexDigit {v : Nat} (h : v < 16) : lowerHex (hexDigit v) = hexDigit v := by
  revert v
  decide

theorem lowerHex_upperHex_hexDigit {v : Nat} (h : v < 16) : lowerHex (upperHex (hexDigit v)) = hexDigit v := by
  revert v
  decide

theorem hexDigit_inj {u v : Nat} (hu : u < 16) (hv : v < 16) (h : hexDigit u = hexDigit v) : u = v := by
  have hval := congrArg hexDigitValue h
  rwa [hexDigitValue_hexDigit hu, hexDigitValue_hexDigit hv, Option.some_inj] at hval

/-! ### One byte -/

theorem highNibble_lt (b : Byte) : b.toNat / 16 < 16 := Nat.div_lt_of_lt_mul b.isLt

theorem lowNibble_lt (b : Byte) : b.toNat % 16 < 16 := Nat.mod_lt _ (by decide)

/-- The shift and the mask of R181 as the quotient and the remainder by 16. -/
theorem hexByte_eq_nibbles (b : Byte) : hexByte b = [hexDigit (b.toNat / 16), hexDigit (b.toNat % 16)] := by
  have hhigh : (b >>> 4).toNat = b.toNat / 16 := by rw [BitVec.toNat_ushiftRight, Nat.shiftRight_eq_div_pow]
  have hlow : (b &&& 0xF).toNat = b.toNat % 16 := (BitVec.toNat_and b 0xF).trans (Nat.and_two_pow_sub_one_eq_mod b.toNat 4)
  rw [hexByte, hhigh, hlow]

theorem hexByte_injective : Function.Injective hexByte := by
  intro a b h
  simp only [hexByte_eq_nibbles, List.cons.injEq, and_true] at h
  obtain ⟨hhigh, hlow⟩ := h
  replace hhigh := hexDigit_inj (highNibble_lt a) (highNibble_lt b) hhigh
  replace hlow := hexDigit_inj (lowNibble_lt a) (lowNibble_lt b) hlow
  exact BitVec.eq_of_toNat_eq (by omega)

/-! ### A byte sequence -/

theorem hexBytes_nil : hexBytes [] = [] := rfl

theorem hexBytes_cons (b : Byte) (bs : List Byte) :
    hexBytes (b :: bs) = hexDigit (b.toNat / 16) :: hexDigit (b.toNat % 16) :: hexBytes bs := by
  rw [hexBytes, List.flatMap_cons, hexByte_eq_nibbles]
  rfl

theorem hexBytes_length (bs : List Byte) : (hexBytes bs).length = 2 * bs.length := by
  induction bs with
  | nil => rfl
  | cons b bs ih => rw [hexBytes_cons, List.length_cons, List.length_cons, ih, List.length_cons, Nat.mul_succ]

/-- The characters of byte `j` stand at places `2j` and `2j + 1`. -/
theorem hexBytes_getD {bs : List Byte} {j : Nat} (h : j < bs.length) :
    (hexBytes bs).getD (2 * j) 'x' = hexDigit ((bs.getD j 0).toNat / 16) ∧
    (hexBytes bs).getD (2 * j + 1) 'x' = hexDigit ((bs.getD j 0).toNat % 16) := by
  induction bs generalizing j with
  | nil => cases h
  | cons b bs ih =>
    rw [hexBytes_cons]
    cases j with
    | zero => exact ⟨rfl, rfl⟩
    | succ j => exact ih (Nat.lt_of_succ_lt_succ h)

theorem exists_hexDigit_of_mem_hexBytes {bs : List Byte} {c : Char} (h : c ∈ hexBytes bs) : ∃ v < 16, c = hexDigit v := by
  obtain ⟨b, -, hc⟩ := List.mem_flatMap.1 h
  rw [hexByte_eq_nibbles, List.mem_pair] at hc
  rcases hc with rfl | rfl
  · exact ⟨_, highNibble_lt b, rfl⟩
  · exact ⟨_, lowNibble_lt b, rfl⟩

theorem hexBytes_injective : Function.Injective hexBytes := by
  intro as
  induction as with
  | nil =>
    rintro (_ | ⟨b, bs⟩) h
    · rfl
    · rw [hexBytes_nil, hexBytes_cons] at h
      cases h
  | cons a as ih =>
    rintro (_ | ⟨b, bs⟩) h
    · rw [hexBytes_nil, hexBytes_cons] at h
      cases h
    · obtain ⟨hbyte, hrest⟩ : hexByte a = hexByte b ∧ hexBytes as = hexBytes bs := List.append_inj h rfl
      rw [hexByte_injective hbyte, ih hrest]

/-! ### Digests -/

theorem Digest.bytes_inj {n : Nat} {d d' : Digest n} : d.bytes = d'.bytes ↔ d = d' := by
  cases d
  cases d'
  simp

/-- A map that keeps every hex digit keeps the rendering. -/
theorem Digest.map_hex_eq_self {n : Nat} (d : Digest n) {f : Char → Char} (hf : ∀ v < 16, f (hexDigit v) = hexDigit v) :
    d.hex.map f = d.hex := by
  refine (List.map_congr_left fun c hc => ?_).trans d.hex.map_id
  obtain ⟨v, hv, rfl⟩ := exists_hexDigit_of_mem_hexBytes hc
  exact hf v hv

theorem Digest.map_lowerHex_hex {n : Nat} (d : Digest n) : d.hex.map lowerHex = d.hex :=
  d.map_hex_eq_self fun _ => lowerHex_hexDigit

theorem Digest.map_lowerHex_map_upperHex_hex {n : Nat} (d : Digest n) : (d.hex.map upperHex).map lowerHex = d.hex := by
  rw [List.map_map]
  exact d.map_hex_eq_self fun _ => lowerHex_upperHex_hexDigit

theorem Digest.eqHex_iff {n : Nat} {d : Digest n} {s : List Char} : d.eqHex s = true ↔ s.map lowerHex = d.hex := by
  rw [Digest.eqHex, d.map_lowerHex_hex, beq_iff_eq]

/-- A mapped list equals another exactly when the lengths agree and so does every place, whatever stands past the ends. -/
theorem map_eq_iff_getD {α β : Type} (f : α → β) (s : List α) (l : List β) (x : α) (y : β) :
    s.map f = l ↔ s.length = l.length ∧ ∀ j, j < s.length → f (s.getD j x) = l.getD j y := by
  constructor
  · rintro rfl
    refine ⟨by rw [List.length_map], fun j hj => ?_⟩
    simp [hj]
  · rintro ⟨hlen, hget⟩
    refine List.ext_getElem (by rw [List.length_map, hlen]) (fun j hj hj' => ?_)
    have hs : j < s.length := hlen ▸ hj'
    simpa [hs, hj'] using hget j hs

end Sys2Proof.Machine
end

section
/-! The statements about hex rendering and the comparison of digests (44_host_side.md). -/

namespace Sys2Proof.Machine

/-- Settles O52: the rendering has two digits for each byte, and a digit's value is the nibble it renders. -/
theorem hexRendersEveryNibble : Obligations.HexRendersEveryNibble := by
  refine ⟨fun n d => ⟨?_, fun j hj => ?_, fun c hc => ?_⟩, fun n d d' h => Digest.bytes_inj.1 (hexBytes_injective h)⟩
  · rw [Digest.hex, hexBytes_length, d.length_eq]
  · obtain ⟨hhigh, hlow⟩ := hexBytes_getD (bs := d.bytes) (d.length_eq.symm ▸ hj)
    rw [Digest.hex, hhigh, hlow]
    exact ⟨hexDigitValue_hexDigit (highNibble_lt _), hexDigitValue_hexDigit (lowNibble_lt _)⟩
  · obtain ⟨v, hv, rfl⟩ := exists_hexDigit_of_mem_hexBytes hc
    exact hexDigit_mem_alphabet hv

/-- Settles O53: the lower-case form of a rendering, or of its upper-case form, is the rendering, so only the string's case
is ignored. -/
theorem digestComparisonIgnoresOnlyHexCase : Obligations.DigestComparisonIgnoresOnlyHexCase :=
  ⟨fun _ d s => Digest.eqHex_iff.trans (map_eq_iff_getD lowerHex s d.hex 'x' 'x'),
    fun _ d => Digest.eqHex_iff.2 d.map_lowerHex_map_upperHex_hex,
    fun _ _ _ => beq_iff_eq.trans Digest.bytes_inj⟩

end Sys2Proof.Machine
end

section
/-! SUPPORT. Commands and the error record: which command words leave it alone, and that no command reads it
(60_exceptions.md R203 to R205). -/

namespace Sys2Proof.Machine

@[simp] theorem errorPart_withErrorRecord (err : Bool) (code : BitVec 4) (w : Word) (e : Engine) :
    errorPart (withErrorRecord err code w e) = (err, code, w) := rfl

theorem withErrorRecord_self (e : Engine) : withErrorRecord e.err e.errCode e.errCmd e = e := rfl

/-- An append neither reads nor writes the error record. -/
theorem appendSha_withErrorRecord (x : Byte) (err : Bool) (code : BitVec 4) (w : Word) (e : Engine) :
    (withErrorRecord err code w e).appendSha x = withErrorRecord err code w (e.appendSha x) := by
  by_cases hfull : e.shaBuf.length = 63
  · rw [appendSha_full x hfull, appendSha_full x (by exact hfull)]
    rfl
  · rw [appendSha_short x hfull, appendSha_short x (by exact hfull)]
    rfl

/-- Every command but CLR_ERR neither reads nor writes the error record. -/
theorem instrEffect_withErrorRecord {i : Instr} (h : i ≠ .clrErr) (err : Bool) (code : BitVec 4) (w : Word) (e : Engine) :
    instrEffect i (withErrorRecord err code w e) = withErrorRecord err code w (instrEffect i e) := by
  cases i with
  | clrErr => exact absurd rfl h
  | shaAppend b => exact appendSha_withErrorRecord b err code w e
  | _ => rfl

/-- Every command but CLR_ERR leaves the error record as it was. -/
theorem instrEffect_errorPart {i : Instr} (h : i ≠ .clrErr) (e : Engine) :
    errorPart (instrEffect i e) = errorPart e := by
  have hcomm := instrEffect_withErrorRecord h e.err e.errCode e.errCmd e
  rw [withErrorRecord_self] at hcomm
  rw [hcomm, errorPart_withErrorRecord, errorPart]

/-- A recorded error is kept by every word but CLR_ERR's: by a command, which does not write the record, and by an illegal
word, which is not the first. -/
theorem wordEffect_errorPart {w : Word} (h : w ≠ 0x00000100) {e : Engine} (herr : e.err = true) :
    errorPart (wordEffect w e) = errorPart e := by
  rcases wordEffect_cases w with ⟨i, rfl, heff⟩ | ⟨c, -, heff⟩ <;> rw [heff]
  · exact instrEffect_errorPart (by rintro rfl; exact h rfl) e
  · rw [recordError_of_err herr]

/-- A recorded error is kept by every step that is neither CLR_ERR nor hardware reset. -/
theorem step_keeps_errorPart {s t : State} (h : step s = .next t) (herr : s.eng.err = true)
    (hreset : ∀ rest, ¬ ResetSignal s rest) (hclr : ∀ rest, ¬ Issues s 0x00000100 rest) :
    errorPart t.eng = errorPart s.eng := by
  rcases step_eng_cases h with heng | ⟨rest, hsignal, -⟩ | ⟨w, rest, hw, heng⟩
  · rw [heng]
  · exact absurd hsignal (hreset rest)
  · rw [heng]
    exact wordEffect_errorPart (by rintro rfl; exact hclr rest hw) herr

end Sys2Proof.Machine
end

section
/-! The statements about rejected commands and the error record (60_exceptions.md). -/

namespace Sys2Proof.Machine

/-- Settles O13: a command's effect on the engine commutes with replacing the error record. -/
theorem commandsRunWhileAnErrorIsRecorded : Obligations.CommandsRunWhileAnErrorIsRecorded := by
  intro i s err code w hi
  refine ⟨_, exec_eq_onEngine i s, ?_⟩
  rw [exec_eq_onEngine, State.onEngine, instrEffect_withErrorRecord hi]
  rfl

/-- Settles O20: the step of an illegal word records its error, which is a write only while the record is clear; afterwards
the only words and events that write the record are CLR_ERR's and hardware reset. -/
theorem illegalCommandIsRecordedOnceAndKept : Obligations.IllegalCommandIsRecordedOnceAndKept := by
  refine ⟨fun s w code rest hw hcode => ⟨fun hclear => ?_, fun herr => ?_⟩, fun s t => step_keeps_errorPart⟩
  · rw [step_issues_illegal hw hcode, recordError_of_clear hclear]
    cases code <;> rfl
  · rw [step_issues_illegal hw hcode, recordError_of_err herr]

end Sys2Proof.Machine
end

section
/-! SUPPORT. The VALID bits of STATUS: what no command word clears, and what the unit resets leave alone
(70_reset_and_hazards.md R230, R232). -/

namespace Sys2Proof.Machine

@[simp] theorem statusWord_engine_reset : statusWord Engine.reset = 0 := by decide

@[simp] theorem statusWord_resetSha (e : Engine) : statusWord e.resetSha = statusWord e := rfl

@[simp] theorem statusWord_setCrcAcc (v : Word) (e : Engine) : statusWord (e.setCrcAcc v) = statusWord e := rfl

@[simp] theorem crcPart_resetSha (e : Engine) : crcPart e.resetSha = crcPart e := rfl

@[simp] theorem shaPart_setCrcAcc (v : Word) (e : Engine) : shaPart (e.setCrcAcc v) = shaPart e := rfl

/-- No VALID bit that is set in `e` is clear in `e'`. -/
def ValidBitsKept (e e' : Engine) : Prop :=
  (e.shaValid = true → e'.shaValid = true) ∧ (e.crcValid = true → e'.crcValid = true)

theorem validBitsKept_of_eq {e e' : Engine} (hsha : e'.shaValid = e.shaValid) (hcrc : e'.crcValid = e.crcValid) :
    ValidBitsKept e e' :=
  ⟨hsha.trans, hcrc.trans⟩

/-- A command writes a VALID bit only to set it: the GETs each set their own. -/
theorem instrEffect_validBitsKept (i : Instr) (e : Engine) : ValidBitsKept e (instrEffect i e) := by
  cases i with
  | shaAppend b =>
    obtain ⟨-, -, -, -, -, hsha, hcrc, -⟩ := appendSha_frame b e
    exact validBitsKept_of_eq hsha hcrc
  | shaGet => exact ⟨fun _ => setShaValid_shaValid _, id⟩
  | crcGet => exact ⟨id, fun _ => setCrcValid_crcValid _⟩
  | _ => exact validBitsKept_of_eq rfl rfl

/-- No word clears a VALID bit, be it a command or illegal. -/
theorem wordEffect_validBitsKept (w : Word) (e : Engine) : ValidBitsKept e (wordEffect w e) := by
  rcases wordEffect_cases w with ⟨i, -, heff⟩ | ⟨c, -, heff⟩ <;> rw [heff]
  · exact instrEffect_validBitsKept i e
  · exact validBitsKept_of_eq (recordError_shaValid e c w) (recordError_crcValid e c w)

/-- No step but hardware reset clears a VALID bit. -/
theorem step_validBitsKept {s t : State} (h : step s = .next t) (hreset : ∀ rest, ¬ ResetSignal s rest) :
    ValidBitsKept s.eng t.eng := by
  rcases step_eng_cases h with heng | ⟨rest, hsignal, -⟩ | ⟨w, -, -, heng⟩
  · rw [heng]
    exact validBitsKept_of_eq rfl rfl
  · exact absurd hsignal (hreset rest)
  · rw [heng]
    exact wordEffect_validBitsKept w s.eng

end Sys2Proof.Machine
end

section
/-! The statements about hardware reset and the unit resets (70_reset_and_hazards.md). -/

namespace Sys2Proof.Machine

/-- Settles O2: the step of a reset signal leaves `Engine.reset`, which is the state the rule lists. -/
theorem resetSignalSetsEveryElement : Obligations.ResetSignalSetsEveryElement :=
  fun _ _ hsignal => ⟨_, step_reset hsignal, statusWord_engine_reset, rfl⟩

/-- Settles O34: every step but hardware reset keeps the VALID bits that are set, and the two unit resets are updates of
SHA.H, SHA.BUF and SHA.BLK, and of CRC.ACC. -/
theorem onlyHardwareResetClearsValid : Obligations.OnlyHardwareResetClearsValid := by
  refine ⟨fun _ _ => step_validBitsKept, fun _ _ hsignal => ?_, fun s => ?_⟩
  · exact ⟨_, step_reset hsignal, engine_reset_shaValid, engine_reset_crcValid⟩
  · exact ⟨_, _, exec_eq_onEngine .shaReset s, exec_eq_onEngine .crcReset s,
      resetSha_resDig _, resetSha_resCrc _, statusWord_resetSha _, resetSha_errCmd _, crcPart_resetSha _,
      setCrcAcc_resDig _ _, setCrcAcc_resCrc _ _, statusWord_setCrcAcc _ _, setCrcAcc_errCmd _ _, shaPart_setCrcAcc _ _⟩

end Sys2Proof.Machine
end

section
/-! SUPPORT. What the invariant asks of an engine, and that every command word keeps it (10_state.md R24,
60_exceptions.md R203, 70_reset_and_hazards.md R236). -/

namespace Sys2Proof.Machine

theorem engine_reset_legal : Engine.reset.Legal where
  bufBound := by decide
  record := .inl ⟨engine_reset_err, engine_reset_errCode, engine_reset_errCmd⟩
  digUnset _ := engine_reset_resDig
  crcUnset _ := engine_reset_resCrc

/-- Whether the error record is truthful is seen from the record alone. -/
theorem errorRecordOk_of_errorPart_eq {e e' : Engine} (h : errorPart e' = errorPart e) (hok : errorRecordOk e) :
    errorRecordOk e' := by
  simp only [errorPart, Prod.mk.injEq] at h
  obtain ⟨herr, hcode, hcmd⟩ := h
  rwa [errorRecordOk, herr, hcode, hcmd]

/-- An append to fewer than 64 pending bytes leaves fewer than 64: the 64th empties the buffer. -/
theorem appendSha_bufBound {e : Engine} (h : e.shaBuf.length < blockBytes) (x : Byte) :
    (e.appendSha x).shaBuf.length < blockBytes := by
  by_cases hfull : e.shaBuf.length = 63
  · rw [appendSha_full x hfull, takeBlock_shaBuf]
    decide
  · rw [appendSha_short x hfull, setShaBuf_shaBuf, List.length_append, List.length_singleton]
    rw [blockBytes] at h ⊢
    omega

theorem instrEffect_bufBound {e : Engine} (h : e.shaBuf.length < blockBytes) (i : Instr) :
    (instrEffect i e).shaBuf.length < blockBytes := by
  cases i with
  | shaReset => exact engine_reset_legal.bufBound
  | shaAppend b => exact appendSha_bufBound h b
  | _ => exact h

/-- CLR_ERR clears the record, and every other command leaves it. -/
theorem instrEffect_errorRecordOk {e : Engine} (h : errorRecordOk e) (i : Instr) : errorRecordOk (instrEffect i e) := by
  by_cases hclr : i = .clrErr
  · subst hclr
    exact .inl ⟨clearError_err e, clearError_errCode e, clearError_errCmd e⟩
  · exact errorRecordOk_of_errorPart_eq (instrEffect_errorPart hclr e) h

/-- A command that leaves SHA_VALID 0 is no SHA_GET, and SHA_VALID was 0 before it. -/
theorem instrEffect_digUnset {e : Engine} (h : e.shaValid = false → e.resDig = ⟨0, 0, 0, 0, 0⟩) (i : Instr)
    (hvalid : (instrEffect i e).shaValid = false) : (instrEffect i e).resDig = ⟨0, 0, 0, 0, 0⟩ := by
  have hget : i ≠ .shaGet := by
    rintro rfl
    cases hvalid
  rw [instrEffect_resDig hget]
  exact h (Bool.eq_false_iff.2 (mt (instrEffect_validBitsKept i e).1 (Bool.eq_false_iff.1 hvalid)))

/-- A command that leaves CRC_VALID 0 is no CRC_GET, and CRC_VALID was 0 before it. -/
theorem instrEffect_crcUnset {e : Engine} (h : e.crcValid = false → e.resCrc = 0) (i : Instr)
    (hvalid : (instrEffect i e).crcValid = false) : (instrEffect i e).resCrc = 0 := by
  have hget : i ≠ .crcGet := by
    rintro rfl
    cases hvalid
  rw [instrEffect_resCrc hget]
  exact h (Bool.eq_false_iff.2 (mt (instrEffect_validBitsKept i e).2 (Bool.eq_false_iff.1 hvalid)))

theorem instrEffect_legal {e : Engine} (h : e.Legal) (i : Instr) : (instrEffect i e).Legal where
  bufBound := instrEffect_bufBound h.bufBound i
  record := instrEffect_errorRecordOk h.record i
  digUnset := instrEffect_digUnset h.digUnset i
  crcUnset := instrEffect_crcUnset h.crcUnset i

/-- Recording an illegal word with the cause it decodes to leaves a truthful record. -/
theorem recordError_errorRecordOk {e : Engine} (h : errorRecordOk e) {w : Word} {c : IllegalCode}
    (hw : decode w = .illegal c) : errorRecordOk (e.recordError c w) := by
  cases herr : e.err with
  | true => rwa [recordError_of_err herr]
  | false =>
    rw [recordError_of_clear herr]
    exact .inr ⟨rfl, c, hw, rfl⟩

theorem recordError_legal {e : Engine} (h : e.Legal) {w : Word} {c : IllegalCode} (hw : decode w = .illegal c) :
    (e.recordError c w).Legal where
  bufBound := by simpa using h.bufBound
  record := recordError_errorRecordOk h.record hw
  digUnset := by simpa using h.digUnset
  crcUnset := by simpa using h.crcUnset

theorem wordEffect_legal {e : Engine} (h : e.Legal) (w : Word) : (wordEffect w e).Legal := by
  rcases wordEffect_cases w with ⟨i, -, heff⟩ | ⟨c, hw, heff⟩ <;> rw [heff]
  · exact instrEffect_legal h i
  · exact recordError_legal h hw

/-- Every element of RES.DIG reads 0 at its reset value. -/
theorem words5Get_zero (k : Fin 5) : words5Get ⟨0, 0, 0, 0, 0⟩ k = 0 := by
  revert k
  decide

end Sys2Proof.Machine
end

section
/-! The statements about legal states. -/

namespace Sys2Proof.Machine

/-- Settles O3: nothing is pending in the reset state, its record is clear and its results are 0. -/
theorem resetStateIsLegal : Obligations.ResetStateIsLegal := engine_reset_legal

/-- Settles O30: a step leaves the engine alone, resets it or runs one command word, and each of these keeps the
invariant. -/
theorem everyStepKeepsTheStateLegal : Obligations.EveryStepKeepsTheStateLegal := by
  intro s t hlegal hstep
  rw [State.Legal] at hlegal ⊢
  rcases step_eng_cases hstep with heng | ⟨rest, -, heng⟩ | ⟨w, rest, -, heng⟩ <;> rw [heng]
  · exact hlegal
  · exact engine_reset_legal
  · exact wordEffect_legal hlegal w

/-- Settles O31: the invariant says that the results are 0, and the registers show them. -/
theorem resultsReadZeroUntilValid : Obligations.ResultsReadZeroUntilValid := by
  refine fun s hlegal => ⟨fun hvalid k => ?_, fun hvalid => ?_⟩
  · rw [regValue, hlegal.digUnset hvalid, words5Get_zero]
  · rw [regValue, hlegal.crcUnset hvalid]

end Sys2Proof.Machine
end

section
/-! SUPPORT. Stepping through pending accesses: which of them fault, and that a safe state can always go on
(20_memory.md R52, R53, 60_exceptions.md R207). -/

namespace Sys2Proof.Machine

/-! ### Accesses that are not admitted -/

/-- A BusError names the offset of the access that met it. -/
theorem admission_eq_busError_accessAddr {a : HostAccess} {off : Nat} (h : admission a = .busError off) :
    off = accessAddr a := by
  rcases admit_eq_busError h with ⟨_, rfl⟩ | ⟨_, _, rfl⟩ <;> rfl

/-- The window answers an access that it does not admit with BusError, and no other. -/
theorem not_admitted_iff {a : HostAccess} : ¬ Admitted a ↔ admission a = .busError (accessAddr a) := by
  constructor
  · intro h
    obtain ⟨off, hoff⟩ : ∃ off, admission a = .busError off := by simpa [Admitted] using h
    rwa [← admission_eq_busError_accessAddr hoff]
  · exact fun h hadmitted => hadmitted _ h

/-- The step of an access that is not admitted. -/
theorem step_of_not_admitted {s : State} {a : HostAccess} {rest : List HostEvent}
    (hp : s.pending = .access a :: rest) (ha : ¬ Admitted a) : step s = .fault (.busError (accessAddr a)) := by
  rw [step_access hp, performAccess_busError (not_admitted_iff.1 ha)]

/-! ### Safe steps -/

/-- An admitted access completes in every state, and leaves the events after it pending. -/
theorem performAccess_of_admitted {a : HostAccess} (ha : Admitted a) (s : State) :
    ∃ t, performAccess a s = .next t ∧ t.pending = s.pending := by
  rcases admitted_iff_reads_or_issues.1 ha with ⟨r, hr⟩ | ⟨w, hw⟩
  · have hcmd : r ≠ .cmd := (admit_eq_readReg.1 hr).2
    obtain ⟨v, hv⟩ := Option.ne_none_iff_exists'.1 (mt (regValue_eq_none (e := s.eng)).1 hcmd)
    exact ⟨_, performAccess_readReg hr hv, rfl⟩
  · exact ⟨_, (performAccess_issue hw s).trans (issueCommand_eq_onEngine w s), rfl⟩

/-- A step from a safe state goes on, and takes the oldest event away. -/
theorem step_of_safe {s : State} (h : Safe s) : ∃ t, step s = .next t ∧ t.pending = s.pending.tail := by
  match hp : s.pending with
  | [] => exact ⟨s, step_idle hp, hp⟩
  | .reset :: rest => exact ⟨_, step_reset hp, rfl⟩
  | .access a :: rest =>
    have ha : Admitted a := h (.access a) (by simp [hp])
    rw [step_access hp]
    exact performAccess_of_admitted ha _

theorem safe_of_pending_eq_tail {s t : State} (h : Safe s) (ht : t.pending = s.pending.tail) : Safe t := by
  intro ev hev
  rw [ht] at hev
  exact h ev (List.mem_of_mem_tail hev)

/-- A safe run performs one event a step. -/
theorem runSteps_of_safe (k : Nat) {s : State} (h : Safe s) :
    ∃ t, runSteps k s = .next t ∧ t.pending = s.pending.drop k ∧ Safe t := by
  induction k generalizing s with
  | zero => exact ⟨s, rfl, rfl, h⟩
  | succ k ih =>
    obtain ⟨u, hstep, hpending⟩ := step_of_safe h
    obtain ⟨t, hrun, hdrop, hsafe⟩ := ih (safe_of_pending_eq_tail h hpending)
    refine ⟨t, (runSteps_of_step hstep k).trans hrun, ?_, hsafe⟩
    rw [hdrop, hpending, List.drop_tail]

/-- A step faults exactly when the window refuses its access. -/
theorem step_eq_fault_iff {s : State} {f : Fault} : step s = .fault f ↔
    ∃ a rest, s.pending = .access a :: rest ∧ ¬ Admitted a ∧ f = .busError (accessAddr a) := by
  constructor
  · intro h
    match hp : s.pending with
    | [] => simp [step_idle hp] at h
    | .reset :: rest => simp [step_reset hp] at h
    | .access a :: rest =>
      by_cases ha : Admitted a
      · obtain ⟨t, ht, -⟩ := performAccess_of_admitted ha { s with pending := rest }
        rw [step_access hp, ht] at h
        cases h
      · rw [step_of_not_admitted hp ha] at h
        cases h
        exact ⟨a, rest, rfl, ha, rfl⟩
  · rintro ⟨a, rest, hp, ha, rfl⟩
    exact step_of_not_admitted hp ha

/-! ### Two steps -/

theorem runSteps_two {s t u : State} (hst : step s = .next t) (htu : step t = .next u) : runSteps 2 s = .next u := by
  rw [runSteps_of_step hst, runSteps_of_step htu, runSteps_zero]

/-- The halves of a 64-bit value, put together again. -/
theorem hiWord_append_loWord (v : DWord) : hiWord v ++ loWord v = v := by
  rw [hiWord, loWord, BitVec.extractLsb'_append_extractLsb'_eq_extractLsb' (rfl : 32 = 0 + 32)]
  exact BitVec.extractLsb'_eq_self

end Sys2Proof.Machine
end

section
/-! The statements about one step, runs and the order of accesses. -/

namespace Sys2Proof.Machine

/-- Settles O12: a command is an update of the engine, and only CLR_ERR's writes the error record. -/
theorem everyLegalCommandCompletes : Obligations.EveryLegalCommandCompletes :=
  fun i s => ⟨_, exec_eq_onEngine i s, fun hclr => instrEffect_errorPart hclr s.eng⟩

/-- Settles O19: the step of a CMD write has its word's effect, which for a command is its execution. -/
theorem stepRunsTheDecodedCommand : Obligations.StepRunsTheDecodedCommand := by
  refine ⟨fun s w i rest hw hi => ?_, fun s w i hi => ?_⟩
  · rw [step_writeCmd hw, exec_eq_wordEffect hi]
  · have hw : (s.withFetchWord 32 w.toNat).pending = .access (.write 0x00 32 w) :: s.pending := by
      rw [withFetchWord_pending, Nat.mod_eq_of_lt w.isLt, BitVec.ofNat_toNat, BitVec.setWidth_eq]
    rw [step_writeCmd hw, exec_eq_wordEffect hi]
    rfl

/-- Settles O23: the window answers BusError at the offset of the access, and then nothing is decoded or delivered. -/
theorem refusedAccessFaultsAndChangesNothing : Obligations.RefusedAccessFaultsAndChangesNothing := by
  intro a s rest ha hp
  have hadm := not_admitted_iff.1 ha
  exact ⟨step_of_not_admitted hp ha, by rw [completionOf, hadm], by rw [effectOf, hadm]⟩

/-- Settles O24: an admitted access completes, a reset signal and an idle step go on, and no step is refused. -/
theorem onlyRefusedAccessesFault : Obligations.OnlyRefusedAccessesFault :=
  ⟨fun _ _ => step_eq_fault_iff, step_ne_refused⟩

/-- Settles O28: each read hands over its half, and the halves make up the count. -/
theorem blockCountHalvesAreConsistent : Obligations.BlockCountHalvesAreConsistent := by
  intro s rest hp
  refine ⟨loWord s.eng.shaBlk, hiWord s.eng.shaBlk, ?_, hiWord_append_loWord _⟩
  rw [runSteps_two (step_readReg (r := .shaBlkcntLo) hp (by decide) rfl)
    (step_readReg (r := .shaBlkcntHi) rfl (by decide) rfl), List.append_assoc]
  rfl

/-- Settles O29: the first step leaves what the command leaves, and the second reads it. -/
theorem readAfterCommandSeesItsEffect : Obligations.ReadAfterCommandSeesItsEffect := by
  intro s w i t r v rest hp hi hexec hv
  rw [exec_eq_wordEffect hi] at hexec
  cases hexec
  have hr : r ≠ .cmd := by
    rintro rfl
    cases hv
  exact runSteps_two (step_writeCmd hp) (step_readReg rfl hr hv)

/-- Settles O32: each step from a safe state goes on to a safe state. -/
theorem safeRunsComplete : Obligations.SafeRunsComplete := fun k _ h => runSteps_of_safe k h

end Sys2Proof.Machine
end

section
/-! The statements about decoding and encoding (30_encoding.md). -/

namespace Sys2Proof

/-- Settles O17: each command has one word, which decodes to it. -/
theorem decodeAndEncodeAgree : Obligations.DecodeAndEncodeAgree := fun _ _ => decode_eq_command_iff.trans eq_comm

/-- Settles O18: the nine words are read by the decoder. -/
theorem writtenOutWordsDecode : Obligations.WrittenOutWordsDecode := by
  unfold Obligations.WrittenOutWordsDecode
  decide

end Sys2Proof
end

section
/-! SUPPORT. The fields of STATUS, and what each operation of the engine leaves as the host reads it, register by register
(10_state.md R32 to R39). -/

namespace Sys2Proof.Machine

/-! ### STATUS -/

/-- R32's layout, most significant field first. -/
def statusLayout (code : BitVec 4) (crcValid shaValid err : Bool) : Word :=
  (0 : BitVec 24) ++ code ++ (0 : BitVec 1) ++ BitVec.ofBool crcValid ++ BitVec.ofBool shaValid ++ BitVec.ofBool err

theorem statusWord_eq_layout (e : Engine) : statusWord e = statusLayout e.errCode e.crcValid e.shaValid e.err := by
  rw [statusWord]
  generalize e.errCode = code
  generalize e.crcValid = crc
  generalize e.shaValid = sha
  generalize e.err = err
  revert code crc sha err
  decide

theorem statusLayout_fields : ∀ (code : BitVec 4) (crc sha err : Bool),
    let v := statusLayout code crc sha err
    v.getLsbD 0 = err ∧ v.getLsbD 1 = sha ∧ v.getLsbD 2 = crc ∧ v.getLsbD 3 = false ∧
      v.extractLsb' 4 4 = code ∧ v.extractLsb' 8 24 = 0 := by
  decide

/-- Clearing ERR and ERRCODE is clearing bits 0 and 7:4. -/
theorem statusLayout_clear : ∀ (code : BitVec 4) (crc sha err : Bool),
    statusLayout 0 crc sha false = statusLayout code crc sha err &&& 0xFFFFFF0E := by
  decide

/-- Setting SHA_VALID is setting bit 1. -/
theorem statusLayout_setSha : ∀ (code : BitVec 4) (crc sha err : Bool),
    statusLayout code crc true err = statusLayout code crc sha err ||| 0x00000002 := by
  decide

/-- Setting CRC_VALID is setting bit 2. -/
theorem statusLayout_setCrc : ∀ (code : BitVec 4) (crc sha err : Bool),
    statusLayout code true sha err = statusLayout code crc sha err ||| 0x00000004 := by
  decide

theorem statusWord_clearError (e : Engine) : statusWord e.clearError = statusWord e &&& 0xFFFFFF0E := by
  simp only [statusWord_eq_layout]
  exact statusLayout_clear e.errCode e.crcValid e.shaValid e.err

theorem statusWord_getSha (e : Engine) : statusWord e.getSha = statusWord e ||| 0x00000002 := by
  simp only [statusWord_eq_layout]
  exact statusLayout_setSha e.errCode e.crcValid e.shaValid e.err

theorem statusWord_getCrc (e : Engine) : statusWord e.getCrc = statusWord e ||| 0x00000004 := by
  simp only [statusWord_eq_layout]
  exact statusLayout_setCrc e.errCode e.crcValid e.shaValid e.err

/-! ### The other registers -/

theorem regValue_clearError (e : Engine) {r : Reg} (hstatus : r ≠ .status) (herr : r ≠ .errCmd) :
    regValue e.clearError r = regValue e r := by
  cases r with
  | status => exact absurd rfl hstatus
  | errCmd => exact absurd rfl herr
  | _ => rfl

theorem regValue_setCrcAcc (v : Word) (e : Engine) {r : Reg} (h : r ≠ .crcAcc) :
    regValue (e.setCrcAcc v) r = regValue e r := by
  cases r with
  | crcAcc => exact absurd rfl h
  | _ => rfl

theorem regValue_getSha (e : Engine) {r : Reg} (hdig : ∀ k, r ≠ .shaDigest k) (hstatus : r ≠ .status) :
    regValue e.getSha r = regValue e r := by
  cases r with
  | shaDigest k => exact absurd rfl (hdig k)
  | status => exact absurd rfl hstatus
  | _ => rfl

theorem regValue_getCrc (e : Engine) {r : Reg} (hcrc : r ≠ .crcResult) (hstatus : r ≠ .status) :
    regValue e.getCrc r = regValue e r := by
  cases r with
  | crcResult => exact absurd rfl hcrc
  | status => exact absurd rfl hstatus
  | _ => rfl

/-- Another running digest, block count and buffer are seen in their own registers only. -/
theorem regValue_shaState (e : Engine) (h : Words5) (buf : List Byte) (blk : DWord) {r : Reg} (hH : ∀ k, r ≠ .shaH k)
    (hlen : r ≠ .shaPendlen) (hlo : r ≠ .shaBlkcntLo) (hhi : r ≠ .shaBlkcntHi) :
    regValue { e with shaH := h, shaBuf := buf, shaBlk := blk } r = regValue e r := by
  cases r with
  | shaH k => exact absurd rfl (hH k)
  | shaPendlen => exact absurd rfl hlen
  | shaBlkcntLo => exact absurd rfl hlo
  | shaBlkcntHi => exact absurd rfl hhi
  | _ => rfl

/-- An append writes the running digest, the block count and the buffer, and nothing else. -/
theorem appendSha_eq_shaState (x : Byte) (e : Engine) :
    ∃ h buf blk, e.appendSha x = { e with shaH := h, shaBuf := buf, shaBlk := blk } := by
  by_cases hfull : e.shaBuf.length = 63
  · exact ⟨_, _, _, appendSha_full x hfull⟩
  · exact ⟨_, _, _, appendSha_short x hfull⟩

end Sys2Proof.Machine
end

section
/-! The statements about the registers as the host reads them (10_state.md). -/

namespace Sys2Proof.Machine

/-- Settles O14, command by command: each is an update of the elements behind the registers named for it. -/
theorem commandsLeaveOtherRegistersReadingAsBefore : Obligations.CommandsLeaveOtherRegistersReadingAsBefore := by
  intro i s
  refine ⟨_, exec_eq_onEngine i s, rfl, rfl, ?_⟩
  cases i with
  | nop => exact fun _ => rfl
  | clrErr => exact ⟨fun _ => regValue_clearError s.eng, statusWord_clearError s.eng⟩
  | shaReset => exact fun _ => regValue_shaState s.eng _ _ _
  | shaAppend b =>
    obtain ⟨h, buf, blk, heff⟩ := appendSha_eq_shaState b s.eng
    rw [onEngine_eng, instrEffect, heff]
    exact fun _ => regValue_shaState s.eng h buf blk
  | shaGet => exact ⟨fun _ => regValue_getSha s.eng, statusWord_getSha s.eng⟩
  | crcReset => exact fun _ => regValue_setCrcAcc _ s.eng
  | crcAppend b => exact fun _ => regValue_setCrcAcc _ s.eng
  | crcGet => exact ⟨fun _ => regValue_getCrc s.eng, statusWord_getCrc s.eng⟩

/-- Settles O26: of SHA.BUF only the length is shown, in SHA_PENDLEN. -/
theorem bufferBytesCannotBeRead : Obligations.BufferBytesCannotBeRead := by
  intro e b hlen r
  cases r with
  | shaPendlen => rw [regValue, regValue, hlen]
  | _ => rfl

/-- Settles O27: a read of STATUS gives the status word, whose layout is the list of its fields. -/
theorem statusReadsItsFields : Obligations.StatusReadsItsFields := by
  refine ⟨statusWord, readGives_regOffset (r := .status) fun _ => rfl, fun e => ?_⟩
  rw [statusWord_eq_layout]
  exact statusLayout_fields e.errCode e.crcValid e.shaValid e.err

end Sys2Proof.Machine
end

section
/-! SUPPORT. Which commands write the state of each unit, and what they read of it (10_state.md R23 to R26,
60_exceptions.md R214). -/

namespace Sys2Proof.Machine

/-! ### The writers of the unit state -/

/-- SHA.BUF is written by SHA_RESET and SHA_APPEND. -/
theorem instrEffect_shaBuf_writers {i : Instr} {e : Engine} (h : (instrEffect i e).shaBuf ≠ e.shaBuf) :
    i = .shaReset ∨ ∃ b, i = .shaAppend b := by
  cases i with
  | shaReset => exact .inl rfl
  | shaAppend b => exact .inr ⟨b, rfl⟩
  | _ => exact absurd rfl h

/-- SHA.H and SHA.BLK are written by SHA_RESET and by the append of the 64th byte. -/
theorem instrEffect_shaBlock_writers {i : Instr} {e : Engine}
    (h : (instrEffect i e).shaH ≠ e.shaH ∨ (instrEffect i e).shaBlk ≠ e.shaBlk) :
    i = .shaReset ∨ (e.shaBuf.length = 63 ∧ (instrEffect i e).shaBuf = [] ∧ ∃ b, i = .shaAppend b) := by
  cases i with
  | shaReset => exact .inl rfl
  | shaAppend b =>
    by_cases hfull : e.shaBuf.length = 63
    · refine .inr ⟨hfull, ?_, b, rfl⟩
      rw [instrEffect, appendSha_full b hfull, takeBlock_shaBuf]
    · rw [instrEffect, appendSha_short b hfull] at h
      exact h.elim (absurd rfl) (absurd rfl)
  | _ => exact h.elim (absurd rfl) (absurd rfl)

/-- CRC.ACC is written by CRC_RESET and CRC_APPEND. -/
theorem instrEffect_crcAcc_writers {i : Instr} {e : Engine} (h : (instrEffect i e).crcAcc ≠ e.crcAcc) :
    i = .crcReset ∨ ∃ b, i = .crcAppend b := by
  cases i with
  | crcReset => exact .inl rfl
  | crcAppend b => exact .inr ⟨b, rfl⟩
  | shaAppend b => exact absurd (appendSha_frame b e).1 h
  | _ => exact absurd rfl h

/-- A step that changes an element no error record holds, and is no hardware reset, runs a command on the engine. -/
theorem step_changes_by_command {α : Type} {part : Engine → α} {s t : State} (hstep : step s = .next t)
    (hrecord : ∀ (e : Engine) c w, part (e.recordError c w) = part e) (hreset : ∀ rest, ¬ ResetSignal s rest)
    (hne : part t.eng ≠ part s.eng) : ∃ i rest, Issues s (encode i) rest ∧ t.eng = instrEffect i s.eng := by
  rcases step_eng_cases hstep with heng | ⟨rest, hsignal, -⟩ | ⟨w, rest, hw, heng⟩
  · exact absurd (congrArg part heng) hne
  · exact absurd hsignal (hreset rest)
  · rcases wordEffect_cases w with ⟨i, rfl, heff⟩ | ⟨c, -, heff⟩
    · exact ⟨i, rest, hw, by rw [heng, heff]⟩
    · rw [heng, heff, hrecord] at hne
      exact absurd rfl hne

/-! ### The two units -/

theorem instrEffect_crcPart {i : Instr} (h : shaCommand i = true) (e : Engine) :
    crcPart (instrEffect i e) = crcPart e := by
  cases i with
  | shaAppend b =>
    obtain ⟨hacc, -, hres, -, -, -, hvalid, -⟩ := appendSha_frame b e
    rw [instrEffect, crcPart, hacc, hres, hvalid, crcPart]
  | shaReset | shaGet => rfl
  | _ => cases h

theorem instrEffect_shaPart {i : Instr} (h : crcCommand i = true) (e : Engine) :
    shaPart (instrEffect i e) = shaPart e := by
  cases i with
  | crcReset | crcAppend | crcGet => rfl
  | _ => cases h

theorem ne_clrErr_of_shaCommand {i : Instr} (h : shaCommand i = true) : i ≠ .clrErr := by
  rintro rfl
  cases h

theorem ne_clrErr_of_crcCommand {i : Instr} (h : crcCommand i = true) : i ≠ .clrErr := by
  rintro rfl
  cases h

/-- What a command of the SHA-1 unit leaves of its unit, from its unit's part of the engine. -/
theorem instrEffect_shaPart_congr {i : Instr} (h : shaCommand i = true) {e e' : Engine} (he : shaPart e = shaPart e') :
    shaPart (instrEffect i e) = shaPart (instrEffect i e') := by
  simp only [shaPart, Prod.mk.injEq] at he
  obtain ⟨hH, hbuf, hblk, hdig, hvalid⟩ := he
  cases i with
  | shaReset => simp [instrEffect, shaPart, hdig, hvalid]
  | shaAppend b =>
    by_cases hfull : e.shaBuf.length = 63
    · simp [instrEffect, shaPart, appendSha_full b hfull, appendSha_full b (hbuf ▸ hfull), hH, hbuf, hblk, hdig, hvalid]
    · simp [instrEffect, shaPart, appendSha_short b hfull, appendSha_short b (hbuf ▸ hfull), hH, hbuf, hblk, hdig, hvalid]
  | shaGet => simp [instrEffect, Engine.getSha, shaPart, hH, hbuf, hblk]
  | _ => cases h

/-- What a command of the CRC-32 unit leaves of its unit, from its unit's part of the engine. -/
theorem instrEffect_crcPart_congr {i : Instr} (h : crcCommand i = true) {e e' : Engine} (he : crcPart e = crcPart e') :
    crcPart (instrEffect i e) = crcPart (instrEffect i e') := by
  simp only [crcPart, Prod.mk.injEq] at he
  obtain ⟨hacc, hres, hvalid⟩ := he
  cases i with
  | crcReset => simp [instrEffect, crcPart, hres, hvalid]
  | crcAppend b => simp [instrEffect, Engine.appendCrc, crcPart, hacc, hres, hvalid]
  | crcGet => simp [instrEffect, Engine.getCrc, crcPart, hacc]
  | _ => cases h

end Sys2Proof.Machine
end

section
/-! The statements about the two units. -/

namespace Sys2Proof.Machine

/-- Settles O35: the step runs a command, which is one of the writers, and the word written is that command's. -/
theorem unitStateHasOnlyItsWriters : Obligations.UnitStateHasOnlyItsWriters := by
  intro s t hstep hreset
  refine ⟨fun hne => ?_, fun hne => ?_, fun hne => ?_⟩
  · obtain ⟨i, rest, hw, heng⟩ := step_changes_by_command (part := Engine.shaBuf) hstep recordError_shaBuf hreset hne
    rw [heng] at hne
    rcases instrEffect_shaBuf_writers hne with rfl | ⟨b, rfl⟩
    · exact .inl ⟨rest, hw⟩
    · exact .inr ⟨b, rest, hw⟩
  · obtain ⟨i, rest, hw, heng⟩ := step_changes_by_command (part := fun e => (e.shaH, e.shaBlk)) hstep
      (fun e c w => by rw [recordError_shaH, recordError_shaBlk]) hreset (by simpa [← not_and_or] using hne)
    rw [heng] at hne ⊢
    rcases instrEffect_shaBlock_writers hne with rfl | ⟨hfull, hbuf, b, rfl⟩
    · exact .inl ⟨rest, hw⟩
    · exact .inr ⟨hfull, hbuf, b, rest, hw⟩
  · obtain ⟨i, rest, hw, heng⟩ := step_changes_by_command (part := Engine.crcAcc) hstep recordError_crcAcc hreset hne
    rw [heng] at hne
    rcases instrEffect_crcAcc_writers hne with rfl | ⟨b, rfl⟩
    · exact .inl ⟨rest, hw⟩
    · exact .inr ⟨b, rest, hw⟩

/-- Settles O36: a command of a unit is a function of the unit's part of the engine, and an update of that part. -/
theorem unitsAreIndependent : Obligations.UnitsAreIndependent := by
  refine ⟨fun i s h => ?_, fun i s h => ?_, fun i s s' h he => ?_, fun i s s' h he => ?_⟩
  · exact ⟨_, exec_eq_onEngine i s, instrEffect_crcPart h s.eng, instrEffect_errorPart (ne_clrErr_of_shaCommand h) s.eng⟩
  · exact ⟨_, exec_eq_onEngine i s, instrEffect_shaPart h s.eng, instrEffect_errorPart (ne_clrErr_of_crcCommand h) s.eng⟩
  · exact ⟨_, _, exec_eq_onEngine i s, exec_eq_onEngine i s', instrEffect_shaPart_congr h he⟩
  · exact ⟨_, _, exec_eq_onEngine i s, exec_eq_onEngine i s', instrEffect_crcPart_congr h he⟩

end Sys2Proof.Machine
end

section
/-! SUPPORT. The stage of each round, and the transform that computes `W[t]` inside round `t` from a window of sixteen words
(41_sha1_transform.md R101 to R107). -/

namespace Sys2Proof.Machine

/-! ### Stages -/

/-- The boolean function and the constant of a round, by its stage `t / 20`. -/
theorem roundFn_roundConst_cases {t : Nat} (h : t < 80) :
    (t / 20 = 0 ∧ roundFn t = sha1Choose ∧ roundConst t = 0x5A827999) ∨
    (t / 20 = 1 ∧ roundFn t = sha1Parity ∧ roundConst t = 0x6ED9EBA1) ∨
    (t / 20 = 2 ∧ roundFn t = sha1Majority ∧ roundConst t = 0x8F1BBCDC) ∨
    (t / 20 = 3 ∧ roundFn t = sha1Parity ∧ roundConst t = 0xCA62C1D6) := by
  have hstage : t / 20 = if t ≤ 19 then 0 else if t ≤ 39 then 1 else if t ≤ 59 then 2 else 3 := by
    split_ifs <;> omega
  rw [hstage]
  unfold roundFn roundConst
  split_ifs
  · exact .inl ⟨rfl, rfl, rfl⟩
  · exact .inr (.inl ⟨rfl, rfl, rfl⟩)
  · exact .inr (.inr (.inl ⟨rfl, rfl, rfl⟩))
  · exact .inr (.inr (.inr ⟨rfl, rfl, rfl⟩))

/-- R104: each bit of `b` selects the bit of `c` or of `d`. -/
theorem getLsbD_sha1Choose (b c d : Word) (i : Nat) :
    (sha1Choose b c d).getLsbD i = if b.getLsbD i then c.getLsbD i else d.getLsbD i := by
  simp only [sha1Choose, BitVec.getLsbD_xor, BitVec.getLsbD_and]
  cases b.getLsbD i <;> simp

/-- R105: each bit is the parity of the three bits. -/
theorem getLsbD_sha1Parity (b c d : Word) (i : Nat) :
    (sha1Parity b c d).getLsbD i = (b.getLsbD i).xor ((c.getLsbD i).xor (d.getLsbD i)) := by
  simp only [sha1Parity, BitVec.getLsbD_xor, Bool.xor_assoc]

/-- R106: each bit is set when at least two of the three bits are. -/
theorem getLsbD_sha1Majority (b c d : Word) (i : Nat) : (sha1Majority b c d).getLsbD i =
    decide (2 ≤ (b.getLsbD i).toNat + (c.getLsbD i).toNat + (d.getLsbD i).toNat) := by
  simp only [sha1Majority, BitVec.getLsbD_or, BitVec.getLsbD_and]
  generalize b.getLsbD i = x
  generalize c.getLsbD i = y
  generalize d.getLsbD i = z
  revert x y z
  decide

/-! ### The rolling window -/

/-- A window that holds `W[t] .. W[t+15]` of the schedule `ws`, as far as the schedule goes. -/
structure WindowAt (ws : List Word) (t : Nat) (window : List Word) : Prop where
  length_eq : window.length = 16
  getD_eq : ∀ j, j < 16 → t + j < ws.length → window.getD j 0 = ws.getD (t + j) 0

/-- The first window is the block's own words. -/
theorem windowAt_beWords {m : List Byte} (hm : m.length = 64) : WindowAt (schedule m) 0 (beWords m) := by
  have hwords : (beWords m).length = 16 := by rw [beWords_length, hm]
  refine ⟨hwords, fun j hj _ => ?_⟩
  rw [Nat.zero_add, schedule_getD_of_lt (by omega)]

/-- R103: dropping the oldest word and adding the recurrence's keeps the window on the schedule. -/
theorem windowAt_succ {m : List Byte} (hm : m.length = 64) {t : Nat} {window : List Word}
    (h : WindowAt (schedule m) t window) : WindowAt (schedule m) (t + 1) (window.tail ++
      [rotl32 (window.getD 13 0 ^^^ window.getD 8 0 ^^^ window.getD 2 0 ^^^ window.getD 0 0) 1]) := by
  obtain ⟨hlen, hget⟩ := h
  have hwords : (beWords m).length = 16 := by rw [beWords_length, hm]
  have hsched := schedule_length hm
  have htail : window.tail.length = 15 := by rw [List.length_tail, hlen]
  refine ⟨by rw [List.length_append, htail, List.length_singleton], fun j hj hlt => ?_⟩
  rcases Nat.lt_or_eq_of_le (Nat.le_of_lt_succ hj) with hold | rfl
  · have hshift : window.tail.getD j 0 = window.getD (j + 1) 0 := by simp [List.getD_eq_getElem?_getD]
    rw [List.getD_append _ _ _ _ (by omega), hshift, hget _ (by omega) (by omega), Nat.add_right_comm, Nat.add_assoc]
  · rw [List.getD_append_right _ _ _ _ (by omega), htail]
    rw [schedule_getD_recurrence (by omega) (by omega) (by omega), hget 13 (by decide) (by omega),
      hget 8 (by decide) (by omega), hget 2 (by decide) (by omega), hget 0 (by decide) (by omega)]
    rfl

/-- The rounds from `t` on with the window are the rounds over the schedule's words from `t` on. -/
theorem rollingRounds_eq_roundsFrom {m : List Byte} (hm : m.length = 64) (n t : Nat) (hn : t + n = 80) (window : List Word)
    (h : WindowAt (schedule m) t window) (v : Work) :
    rollingRounds n t window v = roundsFrom t ((schedule m).drop t) v := by
  have hsched := schedule_length hm
  induction n generalizing t window v with
  | zero =>
    rw [List.drop_of_length_le (by omega)]
    rfl
  | succ n ih =>
    have hfirst : window.getD 0 0 = (schedule m)[t] := by
      rw [h.getD_eq 0 (by decide) (by omega), Nat.add_zero, List.getD_eq_getElem _ _ (by omega)]
    rw [rollingRounds, ih (t + 1) (by omega) _ (windowAt_succ hm h), List.drop_eq_getElem_cons (i := t) (by omega),
      roundsFrom, hfirst]

end Sys2Proof.Machine
end

section
/-! The statements about the rounds and the rolling window (41_sha1_transform.md). -/

namespace Sys2Proof.Machine

/-- Settles O38, stage by stage. -/
theorem stagesUseTheirFunctionAndConstant : Obligations.StagesUseTheirFunctionAndConstant := by
  intro t ht
  rcases roundFn_roundConst_cases ht with ⟨hstage, hfn, hconst⟩ | ⟨hstage, hfn, hconst⟩ | ⟨hstage, hfn, hconst⟩ |
    ⟨hstage, hfn, hconst⟩ <;> rw [hstage, hfn, hconst]
  · exact ⟨getLsbD_sha1Choose, fun _ _ _ => rfl, rfl⟩
  · exact ⟨getLsbD_sha1Parity, fun _ _ _ => rfl, rfl⟩
  · exact ⟨getLsbD_sha1Majority, fun _ _ _ => rfl, rfl⟩
  · exact ⟨getLsbD_sha1Parity, fun _ _ _ => rfl, rfl⟩

/-- Settles O40: the window stands on the schedule in every round. -/
theorem rollingWindowGivesTheSameTransform : Obligations.RollingWindowGivesTheSameTransform := by
  intro h m hm
  rw [sha1TransformRolling, rollingRounds_eq_roundsFrom hm 80 0 rfl _ (windowAt_beWords hm), List.drop_zero, sha1Transform]

end Sys2Proof.Machine
end

section
/-! SUPPORT. The table iteration is linear over XOR, so that the bits above the low byte are only shifted
(43_crc32.md R160, R163). -/

namespace Sys2Proof.Machine

theorem crcBit_of_odd {c : Word} (h : c.getLsbD 0 = true) : crcBit c = (c >>> 1) ^^^ crcPoly :=
  if_pos ((and_one_eq_one_iff c).2 h)

theorem crcBit_of_even {c : Word} (h : c.getLsbD 0 = false) : crcBit c = c >>> 1 :=
  if_neg (mt (and_one_eq_one_iff c).1 (Bool.eq_false_iff.1 h))

theorem crcBit_xor (x y : Word) : crcBit (x ^^^ y) = crcBit x ^^^ crcBit y := by
  have hbit : (x ^^^ y).getLsbD 0 = (x.getLsbD 0 ^^ y.getLsbD 0) := BitVec.getLsbD_xor
  cases hx : x.getLsbD 0 <;> cases hy : y.getLsbD 0 <;> rw [hx, hy] at hbit
  · rw [crcBit_of_even hbit, crcBit_of_even hx, crcBit_of_even hy, BitVec.ushiftRight_xor_distrib]
  · rw [crcBit_of_odd hbit, crcBit_of_even hx, crcBit_of_odd hy, BitVec.ushiftRight_xor_distrib, BitVec.xor_assoc]
  · rw [crcBit_of_odd hbit, crcBit_of_odd hx, crcBit_of_even hy, BitVec.ushiftRight_xor_distrib]
    ac_rfl
  · rw [crcBit_of_even hbit, crcBit_of_odd hx, crcBit_of_odd hy, BitVec.ushiftRight_xor_distrib]
    calc
      x >>> 1 ^^^ y >>> 1 = x >>> 1 ^^^ y >>> 1 ^^^ (crcPoly ^^^ crcPoly) := by rw [BitVec.xor_self, BitVec.xor_zero]
      _ = x >>> 1 ^^^ crcPoly ^^^ (y >>> 1 ^^^ crcPoly) := by ac_rfl

theorem crcBits_xor (n : Nat) (x y : Word) : crcBits n (x ^^^ y) = crcBits n x ^^^ crcBits n y := by
  induction n generalizing x y with
  | zero => rfl
  | succ n ih => rw [crcBits, crcBit_xor, ih, crcBits, crcBits]

/-- While only zeros are shifted out, the polynomial never enters. -/
theorem crcBits_of_low_zero (n : Nat) (x : Word) (h : ∀ i < n, x.getLsbD i = false) : crcBits n x = x >>> n := by
  induction n generalizing x with
  | zero => rfl
  | succ n ih =>
    have hshift : ∀ i < n, (x >>> 1).getLsbD i = false := fun i hi => by
      rw [BitVec.getLsbD_ushiftRight]
      exact h _ (by omega)
    rw [crcBits, crcBit_of_even (h 0 n.succ_pos), ih _ hshift, ← BitVec.shiftRight_add, Nat.add_comm]

/-- A word is its low byte beside the rest. -/
theorem low_xor_high (x : Word) : (x.setWidth 8).setWidth 32 ^^^ (x >>> 8 <<< 8) = x := by
  apply BitVec.eq_of_getLsbD_eq
  intro i hi
  rcases lt_or_ge i 8 with hlow | hhigh
  · simp [hi, hlow]
  · simp [hi, not_lt.2 hhigh, Nat.add_sub_of_le hhigh, BitVec.getLsbD_eq_getElem]

/-- Eight iterations: the table's entry at the low byte, XOR the other bytes shifted down. -/
theorem crcBits_eight (x : Word) : crcBits 8 x = crcTable (x.setWidth 8) ^^^ (x >>> 8) := by
  have hhigh : crcBits 8 (x >>> 8 <<< 8) = x >>> 8 := by
    rw [crcBits_of_low_zero _ _ fun i hi => by simp [hi]]
    apply BitVec.eq_of_getLsbD_eq
    intro i hi
    rcases lt_or_ge (8 + i) 32 with hlt | hge
    · simp [hlt]
    · simp [not_lt.2 hge, BitVec.getLsbD_of_ge x (8 + i) hge]
  conv_lhs => rw [← low_xor_high x]
  rw [crcBits_xor, hhigh, crcTable]

/-- R163's step is eight iterations of R160 with the byte in the low bits. -/
theorem crcStep_eq_crcByteSerial (acc : Word) (b : Byte) : crcStep acc (b.setWidth 32) = crcByteSerial acc b := by
  have hb : b.setWidth 32 >>> 8 = 0#32 := by
    apply BitVec.eq_of_getLsbD_eq
    intro i hi
    simp
  rw [crcByteSerial, crcBits_eight, BitVec.ushiftRight_xor_distrib, hb, BitVec.xor_zero, crcStep, setWidth_and_lowMask]

/-- The printed table as a list, all 256 entries evaluated by the kernel. -/
theorem crcRom_eq_map_crcTable : crcRom = (List.range 256).map fun n => crcTable (BitVec.ofNat 8 n) := by
  decide +kernel

end Sys2Proof.Machine
end

section
/-! The statements about the CRC table (43_crc32.md). -/

namespace Sys2Proof.Machine

/-- Settles O48: the printed table is the generated one as a list, so each entry is. -/
theorem printedCrcTableIsTheGeneratedOne : Obligations.PrintedCrcTableIsTheGeneratedOne := by
  rw [Obligations.PrintedCrcTableIsTheGeneratedOne, crcRom_eq_map_crcTable]
  refine ⟨by rw [List.length_map, List.length_range], fun n => ?_⟩
  rw [List.getD_eq_getElem _ _ (by simpa using n.isLt)]
  simp

/-- Settles O49: the append's step is the bit-serial one. -/
theorem crcTableStepIsBitSerial : Obligations.CrcTableStepIsBitSerial := by
  rintro acc b s rfl
  exact ⟨_, exec_eq_onEngine (.crcAppend b) s, crcStep_eq_crcByteSerial s.eng.crcAcc b⟩

end Sys2Proof.Machine
end

section
/-! SUPPORT. The host's accesses as commands and reads, and what a run of them leaves (20_memory.md R59, 44_host_side.md R184
to R186). -/

namespace Sys2Proof.Machine

/-- The CMD writes of a list of commands. -/
def commandWrites (is : List Instr) : List HostAccess := is.map fun i => writeCmd (encode i)

/-- The effects of a list of commands, in order. -/
def runCommands (is : List Instr) (e : Engine) : Engine := is.foldl (fun e i => instrEffect i e) e

theorem commandWrites_append (is js : List Instr) : commandWrites (is ++ js) = commandWrites is ++ commandWrites js :=
  List.map_append

theorem runCommands_cons (i : Instr) (is : List Instr) (e : Engine) :
    runCommands (i :: is) e = runCommands is (instrEffect i e) := rfl

theorem runCommands_append (is js : List Instr) (e : Engine) :
    runCommands (is ++ js) e = runCommands js (runCommands is e) :=
  List.foldl_append

theorem shaFeed_eq_commandWrites (s : List Byte) : shaFeed s = commandWrites (s.map .shaAppend) := by
  rw [commandWrites, List.map_map]
  rfl

theorem crcFeed_eq_commandWrites (s : List Byte) : crcFeed s = commandWrites (s.map .crcAppend) := by
  rw [commandWrites, List.map_map]
  rfl

/-- The commands of `sha.hash` (R77). -/
def shaHashCommands (s : List Byte) : List Instr := [Instr.shaReset] ++ s.map .shaAppend ++ [Instr.shaGet]

/-- The commands of `crc.hash` (R77). -/
def crcHashCommands (s : List Byte) : List Instr := [Instr.crcReset] ++ s.map .crcAppend ++ [Instr.crcGet]

theorem shaHash_eq_commandWrites (s : List Byte) : shaHash s = commandWrites (shaHashCommands s) := by
  rw [shaHashCommands, commandWrites_append, commandWrites_append, ← shaFeed_eq_commandWrites]
  rfl

theorem crcHash_eq_commandWrites (s : List Byte) : crcHash s = commandWrites (crcHashCommands s) := by
  rw [crcHashCommands, commandWrites_append, commandWrites_append, ← crcFeed_eq_commandWrites]
  rfl

theorem shaRead_eq_map_readReg :
    shaRead = [.shaDigest 0, .shaDigest 1, .shaDigest 2, .shaDigest 3, .shaDigest 4].map readReg := rfl

theorem crcRead_eq_map_readReg : crcRead = [.crcResult].map readReg := rfl

theorem runCommands_shaAppends (s : List Byte) (e : Engine) :
    runCommands (s.map .shaAppend) e = s.foldl (fun e b => e.appendSha b) e :=
  List.foldl_map

theorem runCommands_crcAppends (s : List Byte) (e : Engine) :
    runCommands (s.map .crcAppend) e = s.foldl (fun e b => e.appendCrc (b.setWidth 32)) e :=
  List.foldl_map

theorem foldl_wordEffect_encode (is : List Instr) (e : Engine) :
    (is.map encode).foldl (fun e w => wordEffect w e) e = runCommands is e := by
  simp only [List.foldl_map, wordEffect_of_command (decode_encode _), runCommands]

/-- Reads of registers other than CMD hand the host their values, in order. -/
theorem runSteps_reads (rs : List Reg) (hr : ∀ r ∈ rs, r ≠ .cmd) {s : State}
    (h : s.pending = (rs.map readReg).map HostEvent.access) :
    runSteps rs.length s = .next { s with pending := [], received := s.received ++ rs.filterMap (regValue s.eng) } := by
  induction rs generalizing s with
  | nil =>
    cases s
    simp_all
  | cons r rs ih =>
    obtain ⟨hcmd, hrest⟩ := List.forall_mem_cons.1 hr
    obtain ⟨v, hv⟩ := Option.ne_none_iff_exists'.1 (mt (regValue_eq_none (e := s.eng)).1 hcmd)
    rw [List.length_cons, runSteps_of_step (step_readReg h hcmd hv), ih hrest rfl, List.filterMap_cons_some hv]
    simp

/-- Commands and then reads, on one engine with nothing pending. -/
theorem runHost_commands_reads (is : List Instr) (rs : List Reg) (hr : ∀ r ∈ rs, r ≠ .cmd) {s : State}
    (h : s.pending = []) : runHost (commandWrites is ++ rs.map readReg) s = .next { s with
      eng := runCommands is s.eng, received := s.received ++ rs.filterMap (regValue (runCommands is s.eng)) } := by
  have hwrites := runSteps_writes (is.map encode) ((rs.map readReg).map HostEvent.access)
    (s.enqueue (commandWrites is ++ rs.map readReg)) (by simp [h, commandWrites])
  rw [foldl_wordEffect_encode, List.length_map] at hwrites
  rw [runHost, List.length_append, commandWrites, List.length_map, List.length_map, ← commandWrites,
    runSteps_add_of_next hwrites, runSteps_reads rs hr rfl]
  simp [State.enqueue, h]

theorem runHost_commands (is : List Instr) {s : State} (h : s.pending = []) :
    runHost (commandWrites is) s = .next { s with eng := runCommands is s.eng } := by
  simpa using runHost_commands_reads is [] (by simp) h

/-- When a snapshot at the end of a stream does not see an earlier one, the two runs leave one state. -/
theorem runHost_snapshot_in_stream {append : Byte → Instr} {get : Instr}
    (hget : ∀ (t : List Byte) e, runCommands ([get] ++ t.map append ++ [get]) e = runCommands (t.map append ++ [get]) e)
    (s t : List Byte) {st : State} (hp : st.pending = []) : ∃ u,
    runHost (commandWrites (s.map append) ++ commandWrites [get] ++ commandWrites (t.map append) ++
      commandWrites [get]) st = .next u ∧
    runHost (commandWrites ((s ++ t).map append) ++ commandWrites [get]) st = .next u := by
  simp only [← commandWrites_append, runHost_commands _ hp, List.map_append, List.append_assoc]
  refine ⟨_, ?_, rfl⟩
  rw [runCommands_append, runCommands_append (s.map append)]
  exact congrArg _ (congrArg (State.mk · _ _) (hget t _))

theorem receivedAfter_next (s : State) (e : Engine) (vs : List Word) :
    receivedAfter s.received.length (.next { s with eng := e, received := s.received ++ vs }) = vs :=
  List.drop_left

end Sys2Proof.Machine
end

section
/-! SUPPORT. The SHA-1 unit after a stream of appends, and the padding of the whole message (42_sha1_core.md R134 to R140). -/

namespace Sys2Proof.Machine

/-! ### Chained blocks -/

theorem chainBlocks_add (m n : Nat) (h : Words5) (s : List Byte) :
    chainBlocks (m + n) h s = chainBlocks n (chainBlocks m h s) (s.drop (64 * m)) := by
  induction m generalizing h s with
  | zero => rw [Nat.zero_add, Nat.mul_zero, List.drop_zero, chainBlocks]
  | succ m ih => rw [Nat.succ_add, chainBlocks, ih, chainBlocks, List.drop_drop, blockBytes, Nat.mul_succ, Nat.add_comm 64]

theorem chainBlocks_one (h : Words5) (s : List Byte) : chainBlocks 1 h s = sha1Transform h (s.take 64) := rfl

/-- Bytes behind the blocks do not enter the chain. -/
theorem chainBlocks_append {n : Nat} (h : Words5) {s : List Byte} (t : List Byte) (hn : 64 * n ≤ s.length) :
    chainBlocks n h (s ++ t) = chainBlocks n h s := by
  induction n generalizing h s with
  | zero => rfl
  | succ n ih =>
    rw [chainBlocks, chainBlocks, blockBytes, List.take_append_of_le_length (by omega),
      List.drop_append_of_le_length (by omega), ih _ (by rw [List.length_drop]; omega)]

/-! ### A stream of appends -/

/-- The bytes of a stream behind its last full block. -/
def pendingBytes (s : List Byte) : List Byte := s.drop (64 * (s.length / 64))

theorem pendingBytes_length (s : List Byte) : (pendingBytes s).length = s.length % 64 := by
  rw [pendingBytes, List.length_drop]
  omega

theorem drop_append_pendingBytes (s t : List Byte) : (s ++ t).drop (64 * (s.length / 64)) = pendingBytes s ++ t :=
  List.drop_append_of_le_length (by omega)

/-- The SHA-1 unit with the blocks of a byte sequence chained and the bytes behind them pending (R140). -/
def withShaStream (s : List Byte) (e : Engine) : Engine :=
  { e with
    shaH := chainBlocks (s.length / 64) sha1Iv s
    shaBlk := BitVec.ofNat 64 (s.length / 64)
    shaBuf := pendingBytes s }

/-- A byte that does not fill the block joins the pending ones. -/
theorem withShaStream_snoc_short {s : List Byte} (h : s.length % 64 ≠ 63) (x : Byte) (e : Engine) :
    withShaStream (s ++ [x]) e = (withShaStream s e).setShaBuf (pendingBytes s ++ [x]) := by
  have hdiv : (s ++ [x]).length / 64 = s.length / 64 := by
    rw [List.length_append, List.length_singleton]
    omega
  rw [withShaStream, pendingBytes, hdiv, drop_append_pendingBytes, chainBlocks_append _ _ (by omega)]
  rfl

/-- The byte that fills the block extends the chain by the pending bytes and itself. -/
theorem withShaStream_snoc_full {s : List Byte} (h : s.length % 64 = 63) (x : Byte) (e : Engine) :
    withShaStream (s ++ [x]) e = (withShaStream s e).takeBlock
      (sha1Transform (chainBlocks (s.length / 64) sha1Iv s) (pendingBytes s ++ [x])) := by
  have hlen : (s ++ [x]).length = 64 * (s.length / 64 + 1) := by
    rw [List.length_append, List.length_singleton]
    omega
  have hdiv : (s ++ [x]).length / 64 = s.length / 64 + 1 := by omega
  have hblock : (pendingBytes s ++ [x]).length ≤ 64 := by
    rw [List.length_append, pendingBytes_length, List.length_singleton]
    omega
  have hrest : pendingBytes (s ++ [x]) = [] := by
    rw [pendingBytes, hdiv, ← hlen, List.drop_length]
  rw [withShaStream, hrest, hdiv, chainBlocks_add, chainBlocks_one, chainBlocks_append _ _ (by omega),
    drop_append_pendingBytes, List.take_of_length_le hblock, BitVec.ofNat_add]
  rfl

/-- One more byte on a stream. -/
theorem appendSha_withShaStream (s : List Byte) (x : Byte) (e : Engine) :
    (withShaStream s e).appendSha x = withShaStream (s ++ [x]) e := by
  have hlen : (withShaStream s e).shaBuf.length = s.length % 64 := pendingBytes_length s
  by_cases hfull : s.length % 64 = 63
  · rw [appendSha_full x (hlen.trans hfull), withShaStream_snoc_full hfull]
    rfl
  · rw [appendSha_short x (hlen.trans_ne hfull), withShaStream_snoc_short hfull]
    rfl

/-- R140: a reset and the appends of a byte sequence. -/
theorem foldl_appendSha_resetSha (s : List Byte) (e : Engine) :
    s.foldl (fun e b => e.appendSha b) e.resetSha = withShaStream s e := by
  induction s using List.reverseRecOn with
  | nil => rfl
  | append_singleton s x ih => rw [List.foldl_concat, ih, appendSha_withShaStream]

/-! ### The padded message -/

/-- R135: the bit length of the whole message, from the block count, which wraps, and the pending bytes. -/
theorem bitLength_ofNat_div (n : Nat) : bitLength (BitVec.ofNat 64 (n / 64)) (n % 64) = BitVec.ofNat 64 (n * 8) := by
  apply BitVec.eq_of_toNat_eq
  rw [bitLength, blockBytes]
  simp only [BitVec.toNat_ofNat]
  omega

theorem paddedMessage_length (s : List Byte) :
    (paddedMessage s).length = s.length + 1 + (119 - s.length % 64) % 64 + 8 := by
  simp only [paddedMessage, List.length_append, List.length_singleton, zeros_length, lengthField_length]

/-- The full blocks of a message are the first blocks of its padded form. -/
theorem chainBlocks_paddedMessage (s : List Byte) (h : Words5) :
    chainBlocks (s.length / 64) h (paddedMessage s) = chainBlocks (s.length / 64) h s := by
  simp only [paddedMessage, List.append_assoc]
  exact chainBlocks_append _ _ (by omega)

/-- What stands behind the full blocks of the padded message: the pending bytes and the padding. -/
theorem paddedMessage_drop (s : List Byte) : (paddedMessage s).drop (64 * (s.length / 64)) =
    pendingBytes s ++ ([0x80] ++ (zeros ((119 - s.length % 64) % 64) ++ lengthField (BitVec.ofNat 64 (s.length * 8)))) := by
  simp only [paddedMessage, List.append_assoc]
  exact drop_append_pendingBytes s _

/-- With up to 55 pending bytes the padding fills one block. -/
theorem padding_one_block {buf : List Byte} (h : buf.length ≤ 55) (bits : DWord) :
    buf ++ ([0x80] ++ (zeros ((119 - buf.length) % 64) ++ lengthField bits)) = finalBlock (buf ++ [0x80]) bits := by
  have hzeros : (119 - buf.length) % 64 = 55 - buf.length := by omega
  rw [finalBlock_data, hzeros, zeros]
  simp only [List.append_assoc]

/-- With 56 to 63 pending bytes the padding reaches into a second block, which has no data. -/
theorem padding_two_blocks {buf : List Byte} (h : 55 < buf.length) (h63 : buf.length ≤ 63) (bits : DWord) :
    buf ++ ([0x80] ++ (zeros ((119 - buf.length) % 64) ++ lengthField bits)) =
      buf ++ [0x80] ++ zeros (63 - buf.length) ++ finalBlock [] bits := by
  have hzeros : (119 - buf.length) % 64 = 63 - buf.length + 56 := by omega
  rw [finalBlock_nil, hzeros, zeros, zeros, List.replicate_add]
  simp only [List.append_assoc]

/-- Finalising a stream chains the rest of the padded message: one block or two. -/
theorem sha1Finalize_pendingBytes (s : List Byte) (h : Words5) :
    sha1Finalize h (pendingBytes s) (BitVec.ofNat 64 (s.length / 64)) =
      chainBlocks ((paddedMessage s).length / 64 - s.length / 64) h ((paddedMessage s).drop (64 * (s.length / 64))) := by
  have hlen := pendingBytes_length s
  have hbits := bitLength_ofNat_div s.length
  rw [paddedMessage_drop, paddedMessage_length, ← hlen]
  rw [← hlen] at hbits
  rcases sha1Finalize_cases h (pendingBytes s) (BitVec.ofNat 64 (s.length / 64)) with ⟨hle, hone⟩ | ⟨hgt, htwo⟩
  · have hblocks : (s.length + 1 + (119 - (pendingBytes s).length) % 64 + 8) / 64 - s.length / 64 = 1 := by omega
    have hlast : (finalBlock (pendingBytes s ++ [0x80]) (BitVec.ofNat 64 (s.length * 8))).length = 64 :=
      finalBlock_length _ _ (by rw [List.length_append]; exact Nat.succ_le_succ hle)
    rw [hone, hbits, hblocks, padding_one_block hle, chainBlocks_one, List.take_of_length_le hlast.le]
  · have hblocks : (s.length + 1 + (119 - (pendingBytes s).length) % 64 + 8) / 64 - s.length / 64 = 1 + 1 := by omega
    have hfirst : (pendingBytes s ++ [0x80] ++ zeros (63 - (pendingBytes s).length)).length = 64 * 1 := by
      simp only [List.length_append, List.length_singleton, zeros_length]
      omega
    rw [htwo, hbits, hblocks, padding_two_blocks hgt (by omega), chainBlocks_add, chainBlocks_one, chainBlocks_one,
      List.drop_left' hfirst, List.take_left' hfirst]
    rfl

/-- The snapshot of a stream is the digest of the whole message. -/
theorem sha1Finalize_withShaStream (s : List Byte) (e : Engine) : sha1Finalize (withShaStream s e).shaH
    (withShaStream s e).shaBuf (withShaStream s e).shaBlk = sha1Reference s := by
  have hblocks : s.length / 64 + ((paddedMessage s).length / 64 - s.length / 64) = (paddedMessage s).length / 64 := by
    rw [paddedMessage_length]
    omega
  calc
    _ = chainBlocks ((paddedMessage s).length / 64 - s.length / 64) (chainBlocks (s.length / 64) sha1Iv (paddedMessage s))
        ((paddedMessage s).drop (64 * (s.length / 64))) := by
      rw [chainBlocks_paddedMessage]
      exact sha1Finalize_pendingBytes s _
    _ = sha1Reference s := by rw [← chainBlocks_add, hblocks, sha1Reference, blockBytes]

/-- `sha.hash` leaves the stream of the message in the unit, and its snapshot. -/
theorem runCommands_shaHashCommands (s : List Byte) (e : Engine) :
    runCommands (shaHashCommands s) e = (withShaStream s e).getSha := by
  rw [shaHashCommands, runCommands_append, runCommands_append, runCommands_shaAppends, ← foldl_appendSha_resetSha]
  rfl

/-! ### Snapshots in the middle of a stream -/

/-- The engine with another SHA-1 snapshot. -/
def withShaResult (d : Words5) (valid : Bool) (e : Engine) : Engine := { e with resDig := d, shaValid := valid }

theorem getSha_eq_withShaResult (e : Engine) :
    e.getSha = withShaResult (sha1Finalize e.shaH e.shaBuf e.shaBlk) true e := rfl

/-- A later snapshot overwrites an earlier one and does not read it. -/
theorem getSha_withShaResult (d : Words5) (valid : Bool) (e : Engine) : (withShaResult d valid e).getSha = e.getSha := rfl

theorem appendSha_withShaResult (d : Words5) (valid : Bool) (e : Engine) (x : Byte) :
    (withShaResult d valid e).appendSha x = withShaResult d valid (e.appendSha x) := by
  by_cases hfull : e.shaBuf.length = 63
  · rw [appendSha_full x hfull, appendSha_full x (by exact hfull)]
    rfl
  · rw [appendSha_short x hfull, appendSha_short x (by exact hfull)]
    rfl

/-- R139: the snapshot at the end of a stream does not see one before it. -/
theorem getSha_foldl_getSha (t : List Byte) (e : Engine) : (t.foldl (fun e b => e.appendSha b) e.getSha).getSha =
    (t.foldl (fun e b => e.appendSha b) e).getSha := by
  rw [getSha_eq_withShaResult e, List.foldl_hom (withShaResult _ true) (appendSha_withShaResult _ true),
    getSha_withShaResult]

theorem runCommands_shaGet_shaGet (t : List Byte) (e : Engine) :
    runCommands ([Instr.shaGet] ++ t.map .shaAppend ++ [Instr.shaGet]) e =
      runCommands (t.map .shaAppend ++ [Instr.shaGet]) e := by
  have hget := getSha_foldl_getSha t e
  rw [← runCommands_shaAppends, ← runCommands_shaAppends] at hget
  rw [runCommands_append, runCommands_append, runCommands_append]
  exact hget

end Sys2Proof.Machine
end

section
/-! SUPPORT. The accumulator after a stream of appends (43_crc32.md R163, R167). -/

namespace Sys2Proof.Machine

theorem appendCrc_eq_crcByteSerial (e : Engine) (b : Byte) :
    e.appendCrc (b.setWidth 32) = e.setCrcAcc (crcByteSerial e.crcAcc b) := by
  rw [Engine.appendCrc, crcStep_eq_crcByteSerial]

/-- The appends of a byte sequence write only the accumulator, byte by byte. -/
theorem foldl_appendCrc (s : List Byte) (e : Engine) :
    s.foldl (fun e b => e.appendCrc (b.setWidth 32)) e = e.setCrcAcc (s.foldl crcByteSerial e.crcAcc) := by
  induction s generalizing e with
  | nil => rfl
  | cons b s ih =>
    rw [List.foldl_cons, ih, appendCrc_eq_crcByteSerial]
    rfl

/-- `crc.hash` leaves the accumulator of the whole message, and its snapshot. -/
theorem runCommands_crcHashCommands (s : List Byte) (e : Engine) :
    runCommands (crcHashCommands s) e = (e.setCrcAcc (s.foldl crcByteSerial crcInit)).getCrc := by
  rw [crcHashCommands, runCommands_append, runCommands_append, runCommands_crcAppends, foldl_appendCrc]
  rfl

/-- R167: the snapshot at the end of a stream does not see one before it. -/
theorem getCrc_foldl_getCrc (t : List Byte) (e : Engine) :
    (t.foldl (fun e b => e.appendCrc (b.setWidth 32)) e.getCrc).getCrc =
      (t.foldl (fun e b => e.appendCrc (b.setWidth 32)) e).getCrc := by
  rw [foldl_appendCrc, foldl_appendCrc]
  rfl

theorem runCommands_crcGet_crcGet (t : List Byte) (e : Engine) :
    runCommands ([Instr.crcGet] ++ t.map .crcAppend ++ [Instr.crcGet]) e =
      runCommands (t.map .crcAppend ++ [Instr.crcGet]) e := by
  have hget := getCrc_foldl_getCrc t e
  rw [← runCommands_crcAppends, ← runCommands_crcAppends] at hget
  rw [runCommands_append, runCommands_append, runCommands_append]
  exact hget

end Sys2Proof.Machine
end

section
/-! The statements about streams and one-shot hashes (42_sha1_core.md R139, R140, 43_crc32.md R167, 44_host_side.md R186). -/

namespace Sys2Proof.Machine

/-- Settles O43: the accesses are a reset and appends, which leave the unit with the stream. -/
theorem appendedStreamIsChained : Obligations.AppendedStreamIsChained := by
  intro st bytes hp
  have hrun := runHost_commands (.shaReset :: bytes.map .shaAppend) hp
  rw [runCommands_cons, runCommands_shaAppends, instrEffect, foldl_appendSha_resetSha] at hrun
  rw [shaFeed_eq_commandWrites]
  exact hrun

/-- Settles O44: the snapshot of the stream is the whole message's digest, and the five reads hand over its words. -/
theorem oneShotSha1IsTheWholeMessageHash : Obligations.OneShotSha1IsTheWholeMessageHash := by
  intro st bytes hp
  have hdig : (withShaStream bytes st.eng).getSha.resDig = sha1Reference bytes := sha1Finalize_withShaStream bytes st.eng
  rw [oneShotSha1, shaHash_eq_commandWrites, shaRead_eq_map_readReg, runHost_commands_reads _ _ (by simp) hp,
    receivedAfter_next, runCommands_shaHashCommands]
  simp only [List.filterMap_cons, List.filterMap_nil, regValue, hdig]
  rfl

/-- Settles O45: the snapshot at the end does not see the one in the middle. -/
theorem shaGetDoesNotDisturbTheStream : Obligations.ShaGetDoesNotDisturbTheStream := by
  intro st s t hp
  simp only [shaFeed_eq_commandWrites]
  exact runHost_snapshot_in_stream runCommands_shaGet_shaGet s t hp

/-- Settles O46: the snapshot at the end does not see the one in the middle. -/
theorem crcGetDoesNotDisturbTheStream : Obligations.CrcGetDoesNotDisturbTheStream := by
  intro st s t hp
  simp only [crcFeed_eq_commandWrites]
  exact runHost_snapshot_in_stream runCommands_crcGet_crcGet s t hp

/-- Settles O50: the accumulator of the stream, finalised, is the whole message's CRC, and the read hands it over. -/
theorem oneShotCrc32IsTheBitSerialCrc : Obligations.OneShotCrc32IsTheBitSerialCrc := by
  intro st bytes hp
  rw [oneShotCrc32, crcHash_eq_commandWrites, crcRead_eq_map_readReg, runHost_commands_reads _ _ (by simp) hp,
    receivedAfter_next, runCommands_crcHashCommands]
  rfl

end Sys2Proof.Machine
end

section
/-! SUPPORT. The bytes of a digest, and the accesses and the errors of an assembled line (42_sha1_core.md R138,
30_encoding.md R76, R77). -/

namespace Sys2Proof.Machine

/-! ### Digest bytes -/

theorem bytesBe32_getD (w : Word) (k : Fin 4) : (bytesBe32 w).getD k.val 0 = w.extractLsb' (24 - 8 * k.val) 8 := by
  match k with
  | 0 | 1 | 2 | 3 => rfl

/-- Word `i` of a sequence stands in bytes `4i` to `4i + 3`. -/
theorem flatMap_bytesBe32_getD (ws : List Word) (i : Nat) (k : Fin 4) :
    (ws.flatMap bytesBe32).getD (4 * i + k.val) 0 = (ws.getD i 0).extractLsb' (24 - 8 * k.val) 8 := by
  induction ws generalizing i with
  | nil => simp
  | cons w ws ih =>
    cases i with
    | zero =>
      rw [List.flatMap_cons, Nat.mul_zero, Nat.zero_add, List.getD_append _ _ _ _ (by simp), bytesBe32_getD]
      rfl
    | succ i =>
      have hindex : 4 * (i + 1) + k.val - (bytesBe32 w).length = 4 * i + k.val := by
        rw [bytesBe32_length]
        omega
      rw [List.flatMap_cons, List.getD_append_right _ _ _ _ (by rw [bytesBe32_length]; omega), hindex, ih]
      rfl

theorem words5List_getD (v : Words5) (i : Fin 5) : (words5List v).getD i.val 0 = words5Get v i := by
  match i with
  | 0 | 1 | 2 | 3 | 4 => rfl

theorem sha1DigestOf_getD (v : Words5) (i : Fin 5) (k : Fin 4) :
    (sha1DigestOf v).bytes.getD (4 * i.val + k.val) 0 = (words5Get v i).extractLsb' (24 - 8 * k.val) 8 := by
  rw [← words5List_getD]
  exact flatMap_bytesBe32_getD (words5List v) i.val k

/-! ### Assembled lines -/

theorem assemble_of_not_wellFormed {l : AsmLine} (h : ¬ l.wellFormed = true) : assemble l = none :=
  if_neg h

theorem lineAccesses_of_assemble {l : AsmLine} {as : List HostAccess} (h : assemble l = some as) :
    as = lineAccesses l := by
  unfold assemble at h
  split_ifs at h
  exact (Option.some.inj h).symm

theorem admitted_writeCmd (w : Word) : Admitted (writeCmd w) := admitted_write_iff.2 ⟨rfl, rfl⟩

theorem admitted_read_regOffset_iff {r : Reg} : Admitted (.read (regOffset r) 32) ↔ r ≠ .cmd := by
  rw [admitted_read_iff]
  constructor
  · rintro ⟨-, r', hr', hoff⟩
    exact regOffset_injective hoff ▸ hr'
  · exact fun h => ⟨rfl, r, h, rfl⟩

theorem admitted_write_regOffset_iff {r : Reg} {v : Word} : Admitted (.write (regOffset r) 32 v) ↔ r = .cmd := by
  rw [admitted_write_iff]
  constructor
  · exact fun h => regOffset_injective (r' := .cmd) h.2
  · rintro rfl
    exact ⟨rfl, rfl⟩

theorem admitted_of_mem_commandWrites {is : List Instr} {a : HostAccess} (h : a ∈ commandWrites is) : Admitted a := by
  obtain ⟨i, -, rfl⟩ := List.mem_map.1 h
  exact admitted_writeCmd (encode i)

theorem admitted_of_mem_reads {rs : List Reg} (hr : ∀ r ∈ rs, r ≠ .cmd) {a : HostAccess} (h : a ∈ rs.map readReg) :
    Admitted a := by
  obtain ⟨r, hmem, rfl⟩ := List.mem_map.1 h
  exact admitted_read_regOffset_iff.2 (hr r hmem)

/-- A line other than `rd` and `wr` stands for writes to CMD or for reads of result registers. -/
theorem lineAccesses_admitted {l : AsmLine} (hrd : ∀ r, l ≠ .rd r) (hwr : ∀ r v, l ≠ .wr r v) {a : HostAccess}
    (h : a ∈ lineAccesses l) : Admitted a := by
  cases l with
  | nop => exact admitted_of_mem_commandWrites (is := [.nop]) h
  | clrErr => exact admitted_of_mem_commandWrites (is := [.clrErr]) h
  | shaReset => exact admitted_of_mem_commandWrites (is := [.shaReset]) h
  | shaAppend b => exact admitted_of_mem_commandWrites (is := [.shaAppend (asmByteValue b)]) h
  | shaGet => exact admitted_of_mem_commandWrites (is := [.shaGet]) h
  | crcReset => exact admitted_of_mem_commandWrites (is := [.crcReset]) h
  | crcAppend b => exact admitted_of_mem_commandWrites (is := [.crcAppend (asmByteValue b)]) h
  | crcGet => exact admitted_of_mem_commandWrites (is := [.crcGet]) h
  | word v =>
    obtain rfl := List.mem_singleton.1 h
    exact admitted_writeCmd _
  | rd r => exact absurd rfl (hrd r)
  | wr r v => exact absurd rfl (hwr r v)
  | shaFeed s =>
    rw [lineAccesses, shaFeed_eq_commandWrites] at h
    exact admitted_of_mem_commandWrites h
  | crcFeed s =>
    rw [lineAccesses, crcFeed_eq_commandWrites] at h
    exact admitted_of_mem_commandWrites h
  | shaHash s =>
    rw [lineAccesses, shaHash_eq_commandWrites] at h
    exact admitted_of_mem_commandWrites h
  | crcHash s =>
    rw [lineAccesses, crcHash_eq_commandWrites] at h
    exact admitted_of_mem_commandWrites h
  | shaRead =>
    rw [lineAccesses, shaRead_eq_map_readReg] at h
    exact admitted_of_mem_reads (by simp) h
  | crcRead =>
    rw [lineAccesses, crcRead_eq_map_readReg] at h
    exact admitted_of_mem_reads (by simp) h

theorem not_all_asciiChar {s : List Char} (h : ∃ c ∈ s, 128 ≤ c.toNat) : ¬ s.all asciiChar = true := by
  obtain ⟨c, hmem, hc⟩ := h
  exact fun hall => not_lt.2 hc (all_asciiChar_iff.1 hall c hmem)

end Sys2Proof.Machine
end

section
/-! The statements about digest values and the assembler. -/

namespace Sys2Proof.Machine

/-- Settles O51: a digest's bytes are its words' bytes, one word after another. -/
theorem digestBytesAreBigEndian : Obligations.DigestBytesAreBigEndian :=
  ⟨fun v i k => sha1DigestOf_getD v i.castSucc k, fun v k => sha1DigestOf_getD v 4 k, bytesBe32_getD⟩

/-- Settles O55: the lines but `rd` and `wr` are made of admitted accesses, those two by the register they name, and a line
whose operand is out of range is not well formed. -/
theorem assembledCommandsAreAdmitted : Obligations.AssembledCommandsAreAdmitted := by
  refine ⟨fun l as has hrd hwr a ha => ?_, fun r => ?_, fun r v hv => ?_, fun b => ?_, fun r v hv => ?_, fun s hs => ?_⟩
  · rw [lineAccesses_of_assemble has] at ha
    exact lineAccesses_admitted hrd hwr ha
  · exact ⟨assemble_of_wellFormed rfl, admitted_read_regOffset_iff⟩
  · exact ⟨assemble_of_wellFormed (decide_eq_true hv), admitted_write_regOffset_iff⟩
  · intro fits
    have hfits : b.wellFormed = true ↔ fits := by
      cases b <;> exact decide_eq_true_iff
    exact ⟨hfits, fun hnot => ⟨assemble_of_not_wellFormed (mt hfits.1 hnot), assemble_of_not_wellFormed (mt hfits.1 hnot)⟩⟩
  · have hwide : ¬ decide (v < 2 ^ 32) = true := by simpa using hv
    exact ⟨assemble_of_not_wellFormed hwide, assemble_of_not_wellFormed hwide⟩
  · have hascii := not_all_asciiChar hs
    exact ⟨assemble_of_not_wellFormed hascii, assemble_of_not_wellFormed hascii, assemble_of_not_wellFormed hascii,
      assemble_of_not_wellFormed hascii⟩

end Sys2Proof.Machine
end

section
/-! SUPPORT. Which window an address lies in, and what one platform event does (20_memory.md R50, 60_exceptions.md R214,
70_reset_and_hazards.md R231, R237). -/

namespace Sys2Proof.Machine

/-! ### Windows -/

theorem inWindow_iff {c : InstanceConfig} {addr : Nat} :
    inWindow c addr = true ↔ c.base ≤ addr ∧ addr < c.base + 256 := decide_eq_true_iff

theorem inWindow_of_instanceAt {cfg : PlatformConfig} {addr k : Nat} {c : InstanceConfig}
    (h : instanceAt cfg addr = some k) (hc : cfg.instances[k]? = some c) : inWindow c addr = true := by
  obtain ⟨hk, hin, -⟩ := List.findIdx?_eq_some_iff_getElem.1 h
  obtain ⟨-, rfl⟩ := List.getElem?_eq_some_iff.1 hc
  exact hin

theorem base_mod_of_wellFormed {cfg : PlatformConfig} (h : cfg.wellFormed = true) {c : InstanceConfig}
    (hc : c ∈ cfg.instances) : c.base % 256 = 0 := by
  simp only [PlatformConfig.wellFormed, Bool.and_eq_true, PlatformConfig.basesAligned, List.all_eq_true] at h
  exact eq_of_beq (h.1.2 c hc)

theorem bases_nodup_of_wellFormed {cfg : PlatformConfig} (h : cfg.wellFormed = true) :
    (cfg.instances.map (·.base)).Nodup := by
  simp only [PlatformConfig.wellFormed, Bool.and_eq_true] at h
  exact decide_eq_true_iff.1 h.2

/-- Aligned windows that share an address have one base. -/
theorem base_eq_of_inWindow {c c' : InstanceConfig} {addr : Nat} (hc : c.base % 256 = 0) (hc' : c'.base % 256 = 0)
    (h : inWindow c addr = true) (h' : inWindow c' addr = true) : c.base = c'.base := by
  rw [inWindow_iff] at h h'
  omega

/-- On a legal platform an address lies in one window at most. -/
theorem instanceAt_of_inWindow {cfg : PlatformConfig} (hwf : cfg.wellFormed = true) {addr k : Nat} {c : InstanceConfig}
    (hc : cfg.instances[k]? = some c) (hin : inWindow c addr = true) : instanceAt cfg addr = some k := by
  obtain ⟨hk, rfl⟩ := List.getElem?_eq_some_iff.1 hc
  refine List.findIdx?_eq_some_iff_getElem.2 ⟨hk, hin, fun j hj hinj => ?_⟩
  have hbase := base_eq_of_inWindow (base_mod_of_wellFormed hwf (List.getElem_mem (hj.trans hk)))
    (base_mod_of_wellFormed hwf (List.getElem_mem hk)) hinj hin
  have hindex : j = k := (bases_nodup_of_wellFormed hwf).getElem_inj_iff (hi := by simpa using hj.trans hk)
    (hj := by simpa using hk) |>.1 (by simpa using hbase)
  exact hj.ne hindex

/-! ### Platform steps -/

theorem platform_step_access {cfg : PlatformConfig} {p : Platform} {agent : Nat} {a : HostAccess}
    {rest : List PlatformEvent} (h : p.pending = .access agent a :: rest) :
    Platform.step cfg p = Platform.performAccess cfg agent a { p with pending := rest } := by
  rw [Platform.step, h]

theorem platform_step_reset {cfg : PlatformConfig} {p : Platform} {d : Nat} {rest : List PlatformEvent}
    (h : p.pending = .reset d :: rest) :
    Platform.step cfg p = .next (Platform.resetDomain cfg d { p with pending := rest }) := by
  rw [Platform.step, h]

/-- An access that goes on has written the engine whose window it addresses, and no other. -/
theorem platform_performAccess_engines {cfg : PlatformConfig} {agent : Nat} {a : HostAccess} {p p' : Platform}
    (h : Platform.performAccess cfg agent a p = .next p') :
    ∃ k e, instanceAt cfg (accessAddr a) = some k ∧ p'.engines = p.engines.set k e := by
  unfold Platform.performAccess at h
  split at h
  · cases h
  · rename_i k hk
    split at h
    · split_ifs at h
      split at h <;> cases h
      exact ⟨k, _, hk, rfl⟩
    · cases h

section
variable {cfg : PlatformConfig} {a : HostAccess} {p : Platform} {k : Nat} {c : InstanceConfig} {e : Engine}
  (hk : instanceAt cfg (accessAddr a) = some k) (hc : cfg.instances[k]? = some c) (he : p.engines[k]? = some e)
include hk hc he

theorem platform_performAccess_next {t : State} (ht : performAccess (accessFrom c.base a) (portOf e) = .next t) :
    Platform.performAccess cfg c.agent a p = .next { p with
      engines := p.engines.set k t.eng
      received := p.received ++ t.received.map fun v => (c.agent, v) } := by
  simp only [Platform.performAccess, hk, hc, he, ht, if_true]

theorem platform_performAccess_fault {f : Fault} (hf : performAccess (accessFrom c.base a) (portOf e) = .fault f) :
    Platform.performAccess cfg c.agent a p = .fault f := by
  simp only [Platform.performAccess, hk, hc, he, hf, if_true]

theorem platform_performAccess_otherAgent {agent : Nat} (h : agent ≠ c.agent) :
    Platform.performAccess cfg agent a p = .refused (.secondHostAgent agent) := by
  simp only [Platform.performAccess, hk, hc, he, if_neg h]

end

theorem resetDomain_getElem? {cfg : PlatformConfig} {p : Platform} {k : Nat} {c : InstanceConfig} {e : Engine}
    (hc : cfg.instances[k]? = some c) (he : p.engines[k]? = some e) (d : Nat) :
    (Platform.resetDomain cfg d p).engines[k]? = some (if c.domain = d then Engine.reset else e) := by
  rw [Platform.resetDomain, List.getElem?_zipWith, hc, he]
  rfl

end Sys2Proof.Machine
end

section
/-! The statements about the platform. -/

namespace Sys2Proof.Machine

/-- Settles O56: the one engine an access writes is the one whose window holds the address. -/
theorem accessChangesNoOtherInstance : Obligations.AccessChangesNoOtherInstance := by
  intro cfg p p' agent a rest j c hp hstep hc hout
  rw [platform_step_access hp] at hstep
  obtain ⟨k, e, hk, hengines⟩ := platform_performAccess_engines hstep
  have hne : k ≠ j := by
    rintro rfl
    exact hout (inWindow_iff.1 (inWindow_of_instanceAt hk hc))
  rw [hengines, List.getElem?_set_ne hne]

/-- Settles O57: on a legal platform the address places the access at this engine, which then runs as it does alone. -/
theorem instanceRunsAsTheOneInstanceMachine : Obligations.InstanceRunsAsTheOneInstanceMachine := by
  intro cfg p agent a rest k c e hwf hp hc he hlo hhi
  have hk := instanceAt_of_inWindow hwf hc (inWindow_iff.2 ⟨hlo, hhi⟩)
  have he' : { p with pending := rest }.engines[k]? = some e := he
  rw [platform_step_access hp]
  refine ⟨?_, ?_, fun hagent => platform_performAccess_otherAgent hk hc he' hagent⟩
  · rintro rfl t ht
    exact platform_performAccess_next hk hc he' ht
  · rintro rfl f hf
    exact platform_performAccess_fault hk hc he' hf

/-- Settles O58: the reset goes through the engines and their configuration side by side. -/
theorem resetSignalReachesExactlyItsDomain : Obligations.ResetSignalReachesExactlyItsDomain := by
  intro cfg p d rest hp hlen
  refine ⟨_, platform_step_reset hp, rfl, ?_, fun k c e hc he => resetDomain_getElem? hc he d⟩
  rw [Platform.resetDomain, List.length_zipWith, hlen, Nat.min_self]

end Sys2Proof.Machine
end
